-- ==== Sys2Proof/Word.lean ====
section
/-! DEFINITION. The word types of the engine (`00_scope.md` R14): a byte is 8 bits, and every register
has the width `10_state.md` gives it. Byte order lives in `Machine/Bytes.lean`. -/

namespace Sys2Proof

/-- A byte (R14): bit 7 is the most significant bit (R91). -/
abbrev Byte := BitVec 8

/-- The 16-bit registers and fields: lengths, sizes, chunk counts and ids. -/
abbrev Half := BitVec 16

/-- `TIMER_W` and `IMG_LEN_W` are 32 (R9). -/
abbrev Word32 := BitVec 32

/-- `VALUE` and the two integer views (R24, R34). -/
abbrev Word64 := BitVec 64

/-- A byte sequence (R14): the first byte has index 0. -/
abbrev Bytes := List Byte

end Sys2Proof
end

