-- ==== Sys2Proof/Machine/Bytes.lean ====
section
/-! DEFINITION. Byte order and the default checksum: `be`, `ube`, `sbe` of `00_scope.md` R15 and the CRC-16/XMODEM of
`30_encoding.md` R97. Every multi-byte field is big-endian (R64). -/

namespace Sys2Proof.Machine

/-- `be(v, w)` (R15): byte `i` is `(v >> (8 * (w - 1 - i)))[7:0]`; bits of `v` at and above `8 w` are dropped. -/
def be (v : Nat) : Nat → Bytes
  | 0 => []
  | w + 1 => BitVec.ofNat 8 (v >>> (8 * w)) :: be v w

/-- `ube(s)` (R15): the unsigned big-endian value. -/
def ube : Bytes → Nat
  | [] => 0
  | b :: s => b.toNat * 2 ^ (8 * s.length) + ube s

/-- `sbe(s)` (R15): the signed two's-complement big-endian value, for a sequence of at least one byte. -/
def sbe (s : Bytes) : Int :=
  match s with
  | [] => 0
  | b :: _ => if b.msb then (ube s : Int) - 2 ^ (8 * s.length) else ube s

/-- `sext_64(sbe(s))` (R15, R156). -/
def sext64 (v : Int) : Word64 := BitVec.ofInt 64 v

/-- `zext_64(ube(s))` (R15, R155). -/
def zext64 (v : Nat) : Word64 := BitVec.ofNat 64 v

/-- One bit of the CRC-16/XMODEM register (R97). -/
def crcBit (c : BitVec 16) : BitVec 16 :=
  if c.msb then (c <<< 1) ^^^ 0x1021 else c <<< 1

/-- `n` bits of the CRC register. -/
def crcBits : Nat → BitVec 16 → BitVec 16
  | 0, c => c
  | n + 1, c => crcBits n (crcBit c)

/-- The CRC register after the bytes `s`, from the register value `c` (R97). -/
def crcFrom (c : BitVec 16) : Bytes → BitVec 16
  | [] => c
  | b :: s => crcFrom (crcBits 8 (c ^^^ (b.setWidth 16 <<< 8))) s

/-- CRC-16/XMODEM (R97): initial value 0, no reflection, no final inversion. -/
def crc16 (s : Bytes) : BitVec 16 := crcFrom 0 s

end Sys2Proof.Machine
end

