-- ==== Sys2Proof/Config.lean ====
section
/-! DEFINITION. What is fixed for a machine: the constants of `00_scope.md` R8, the open parameters of R9 as
one plain record, the kinds of answer the transport gives (R12), and the free values of the model, which
are opaque constants: nothing can evaluate them. -/

namespace Sys2Proof

/-- The answer of `T_OPEN` and `T_WRITE` (R171, R172). -/
inductive Ack where
  | ok
  | fault
deriving DecidableEq, Repr, Inhabited

/-- The answer of `T_READ` (R173). -/
inductive ReadAns where
  | fault
  | bytes (b : Bytes)
deriving DecidableEq, Repr, Inhabited

/-- The trailer of a frame: `TRAILER_LEN` and `CHK` together (R9, R97, decision D2). A choice of the two is a piece of data, so
that a state can hold it; `custom extra k` stands for an arbitrary checksum of `extra + 1` bytes, whose value is
the opaque `Config.openChk k`, so a claim over all trailers holds for any `CHK`. Log entry 2. -/
inductive Trailer where
  /-- the default instance: CRC-16/XMODEM, two bytes, most significant byte first -/
  | crc16Xmodem
  /-- any other total function to exactly `extra + 1` bytes -/
  | custom (extra : Nat) (k : Nat)
deriving DecidableEq, Repr

/-- The open parameters of R9. `LEN_W`, `TIMER_W`, `IMG_LEN_W` and `TICK` are decided by the spec and stand in the
widths of the registers. -/
structure Params where
  /-- `TRAILER_LEN` and `CHK` -/
  trailer : Trailer
  /-- `CHUNK_SIZE` -/
  chunkSize : Nat
  /-- `PAYLOAD_MAX` -/
  payloadMax : Nat
  /-- `OPC_CLEAR_STORAGE` -/
  opcClearStorage : Byte
  /-- `OPC_RESET_FOR_BOOT` -/
  opcResetForBoot : Byte
  /-- `OPC_FW_CHUNK` -/
  opcFwChunk : Byte
  /-- `OPC_RESET_MCU` -/
  opcResetMcu : Byte
  /-- `STATUS_OK` -/
  statusOk : Byte
  /-- `ADDR_W` -/
  addrW : Nat
deriving DecidableEq, Repr

namespace Config

/-! The hard-wired constants (R8). -/

/-- Start marker of a request frame. -/
def startSent : Byte := 0xCD
/-- Start marker of a response frame. -/
def startRecv : Byte := 0xDC
/-- Direction marker of a request. -/
def dirReq : Byte := 0x01
/-- Direction marker of a response. No rule compares a received direction byte with it (R94, R153). -/
def dirRsp : Byte := 0x02
/-- Size of the frame header in bytes. -/
def headerSize : Nat := 5
/-- Attempts per exchange. -/
def maxAttempts : Nat := 10
/-- Backoff after a failed attempt, in ms. -/
def backoffMs : Word32 := 100
/-- Settle delay after the reset-for-boot command, in ms. -/
def settleMs : Word32 := 800
/-- The requested-chunk value that means "transfer complete". -/
def sentinel : Half := 0xFFFF

/-! The free values. -/

/-- Byte `i` of the trailer of `s` under the `k`-th unspecified checksum (U5, U6). Log entry 2. -/
opaque openChk (k : Nat) (s : Bytes) (i : Nat) : Byte

/-- The transport's answer to an open or a write, drawn when no queued answer is left (U1). Log entry 4. -/
opaque freeAck (n : Nat) : Ack

/-- The transport's answer to a read, drawn when no queued answer is left (U1). Log entry 4. -/
opaque freeRead (n : Nat) : ReadAns

/-- `OPC_CLEAR_STORAGE` has no default (D29). Log entry 3. -/
opaque opcClearStorage : Byte
/-- `OPC_RESET_FOR_BOOT` has no default (D29). Log entry 3. -/
opaque opcResetForBoot : Byte
/-- `OPC_FW_CHUNK` has no default (D29). Log entry 3. -/
opaque opcFwChunk : Byte
/-- `OPC_RESET_MCU` has no default (D29). Log entry 3. -/
opaque opcResetMcu : Byte

/-- The instance the reset state carries: the defaults of R9 where R9 has one, an opaque constant where it has
none. DESIGN CHOICE, log entry 1. -/
def params : Params where
  trailer := .crc16Xmodem
  chunkSize := 20
  payloadMax := 65535
  opcClearStorage := opcClearStorage
  opcResetForBoot := opcResetForBoot
  opcFwChunk := opcFwChunk
  opcResetMcu := opcResetMcu
  statusOk := 0x01
  addrW := 7

end Config

/-- `TRAILER_LEN` (R9): at least 1 by construction. -/
def Params.trailerLen (P : Params) : Nat :=
  match P.trailer with
  | .crc16Xmodem => 2
  | .custom extra _ => extra + 1

/-- `SIZE(w)` (R10): the length of a frame with a `w`-byte payload. -/
def Params.size (P : Params) (w : Nat) : Nat := Config.headerSize + w + P.trailerLen

/-- `FRAME_MIN` (R10): the length of a frame with an empty payload. -/
def Params.frameMin (P : Params) : Nat := P.size 0

/-- The constraints of R9, and that the frame sizes the engine computes fit the registers R31 gives them: a request
frame fits the 17-bit `TXLEN`, and an 8-byte response fits the 16-bit `X_RSIZE` (DEDUCED, log entry 15). -/
abbrev Params.wf (P : Params) : Prop :=
  1 ≤ P.chunkSize ∧ 4 + P.chunkSize ≤ P.payloadMax ∧ 10 ≤ P.payloadMax ∧ P.payloadMax ≤ 65535 ∧
    P.size P.payloadMax < 2 ^ 17 ∧ P.size 8 < 2 ^ 16

end Sys2Proof
end

