-- ==== Sys2Proof/Syntax.lean ====
section
/-! DEFINITION. The instructions: one constructor per row of spec/opcode_table.json. The nine `CMD4` rows are the
codes a host writes to `CMD` (`30_encoding.md` R104). The nine `FRAME` rows are the wire frames and the
internal operations that own them (R110): the engine's own steps run them (log entry 17). -/

namespace Sys2Proof

/-- One constructor per row of the opcode table; the names in `LAWS.json` say which. -/
inductive Instr where
  /-- `NOP`, code 0 (R183) -/
  | nop
  /-- `OPEN`, code 1 (R170) -/
  | openBus
  /-- `READ`, code 2 (R180) -/
  | read
  /-- `WRITE_VALUE`, code 3 (R181) -/
  | writeValue
  /-- `WRITE_BYTES`, code 4 (R182) -/
  | writeBytes
  /-- `FW_UPDATE`, code 5 (R201) -/
  | fwUpdate
  /-- `PROGRESS_TAKE`, code 6 (R220) -/
  | progressTake
  /-- `RESERVED_7`, code 7 (R105) -/
  | reserved7
  /-- `RESERVED_8_TO_F`, codes 8 to 15, the three low bits free (R105) -/
  | reserved8ToF (x : BitVec 3)
  /-- `SER(s, o, d, p)`: serialize a frame into the transmit buffer (R130) -/
  | ser (s o d : Byte) (p : Bytes)
  /-- `ENCODE_REQUEST(o, p)` (R131) -/
  | encodeRequest (o : Byte) (p : Bytes)
  /-- `DECODE_RESPONSE(b, e)` over the received bytes `b`, with `e = X_RSIZE` (R151) -/
  | decodeResponse (b : Bytes)
  /-- the firmware chunk request: opcode byte, chunk count, chunk id, data (R134, R210) -/
  | fwChunkRequest (c : Byte) (count id : Half) (data : Bytes)
  /-- the accepted firmware chunk reply: opcode and direction bytes, next-requested chunk id (R212) -/
  | fwChunkReply (o d : Byte) (id : Half)
  /-- the clear-program-storage request: opcode byte (R202) -/
  | clearStorageRequest (c : Byte)
  /-- the accepted clear-program-storage reply: opcode and direction bytes, status (R203) -/
  | clearStorageReply (o d status : Byte)
  /-- the reset-for-boot request: opcode byte (R204) -/
  | resetForBootRequest (c : Byte)
  /-- the MCU reset request: opcode byte (R221) -/
  | resetMcuRequest (c : Byte)
deriving DecidableEq, Repr

/-- Which `FRAME` row is meant. Rows share bit patterns (four rows are a request header with an empty payload), and no bit
pattern selects an internal operation (R110), so the operation that runs says which row a frame is. -/
inductive Role where
  | serialize
  | request
  | response
  | chunkRequest
  | chunkReply
  | clearRequest
  | clearReply
  | bootRequest
  | mcuResetRequest
deriving DecidableEq, Repr

/-- The two formats of the opcode table. -/
inductive Format where
  | cmd4
  | frame (r : Role)
deriving DecidableEq, Repr

/-- An accepted response frame (R150); `len` is the payload length. -/
structure Frame where
  opcode : Byte
  dir : Byte
  len : Half
  payload : Bytes
deriving DecidableEq, Repr

end Sys2Proof
end

