-- ==== Sys2Proof/WellFormed.lean ====
section
/-! DEFINITION. Which instruction terms have an encoding. A command is always well formed; a frame is when its payload
fits the 16-bit length field (`30_encoding.md` R90, R95) and when the fixed parts of its row can hold. -/

namespace Sys2Proof

/-- The length field counts 0 to 65535 payload bytes (R90). -/
abbrev payloadFits (p : Bytes) : Prop := p.length ≤ 65535

/-- A received frame that the `DECODE_RESPONSE` row can stand for: at least a header, starting with `0xDC` (R92), and at
most the 65535 bytes `RBUF` holds (R31). -/
abbrev responseShaped (b : Bytes) : Prop :=
  Config.headerSize ≤ b.length ∧ b.length ≤ 65535 ∧ b.head? = some Config.startRecv

/-- A chunk carries at least one byte (R134) and fits a payload behind its count and id (R101). -/
abbrev chunkFits (data : Bytes) : Prop := 1 ≤ data.length ∧ 4 + data.length ≤ 65535

/-- Well-formed instruction terms: those an encoding exists for. -/
def Instr.wf : Instr → Bool
  | .nop => true
  | .openBus => true
  | .read => true
  | .writeValue => true
  | .writeBytes => true
  | .fwUpdate => true
  | .progressTake => true
  | .reserved7 => true
  | .reserved8ToF _ => true
  | .ser _ _ _ p => decide (payloadFits p)
  | .encodeRequest _ p => decide (payloadFits p)
  | .decodeResponse b => decide (responseShaped b)
  | .fwChunkRequest _ _ _ data => decide (chunkFits data)
  | .fwChunkReply _ _ _ => true
  | .clearStorageRequest _ => true
  | .clearStorageReply _ _ _ => true
  | .resetForBootRequest _ => true
  | .resetMcuRequest _ => true

end Sys2Proof
end

