-- ==== Sys2Proof/Decode.lean ====
section
/-! DEFINITION. From bits to an instruction, and back. A host command is the 4-bit code written to `CMD`
(`30_encoding.md` R104). A `FRAME` row is its header bytes (R91) followed by its payload bytes; the trailer is
computed from them, not read, except in a received frame, where every byte is kept for the decoder's checks (R151).
Decoding is total and rejects by name. -/

namespace Sys2Proof

open Sys2Proof.Machine (be ube)

/-- Why a word is no instruction. -/
inductive DecodeError where
  /-- no byte at all -/
  | empty
  /-- a command code is 4 bits (R104); this word has a bit above them -/
  | wideCommand
  /-- fewer than the five header bytes (R90) -/
  | shortHeader
  /-- offset 0 is not the start marker of the row (R92) -/
  | badStart
  /-- offset 2 is not the direction marker of the row (R94) -/
  | badDirection
  /-- the length field has not the row's value (R101 to R103), or is too small for the row -/
  | badLength
  /-- fewer payload bytes than the length field says (R95) -/
  | shortPayload
  /-- more bytes than the length field says (R95), or than `RBUF` holds (R31) -/
  | longPayload
deriving DecidableEq, Repr

/-- The instruction of a command code (R104, R105): every 4-bit code has one. -/
def decodeCmd (c : BitVec 4) : Instr :=
  match c.toNat with
  | 0 => .nop
  | 1 => .openBus
  | 2 => .read
  | 3 => .writeValue
  | 4 => .writeBytes
  | 5 => .fwUpdate
  | 6 => .progressTake
  | 7 => .reserved7
  | _ => .reserved8ToF (c.setWidth 3)

/-- A frame's five header bytes (R91). -/
structure Header where
  start : Byte
  opcode : Byte
  dir : Byte
  len : Nat
deriving DecidableEq, Repr

/-- Split a byte sequence into its header and the bytes after it. -/
def splitHeader : Bytes → Option (Header × Bytes)
  | s :: o :: d :: h :: l :: rest => some (⟨s, o, d, ube [h, l]⟩, rest)
  | _ => none

/-- The payload of a frame whose length field is `len`: exactly the bytes after the header. -/
def exactPayload (len : Nat) (rest : Bytes) : Except DecodeError Bytes :=
  if rest.length < len then .error .shortPayload
  else if len < rest.length then .error .longPayload
  else .ok rest

/-- A request frame of the engine: start marker `0xCD`, direction `0x01` (R92, R94). -/
def requestHeader (h : Header) : Except DecodeError Unit :=
  if h.start ≠ Config.startSent then .error .badStart
  else if h.dir ≠ Config.dirReq then .error .badDirection
  else .ok ()

/-- A response frame: start marker `0xDC`; the direction byte is not checked (R94, R153). -/
def responseHeader (h : Header) : Except DecodeError Unit :=
  if h.start ≠ Config.startRecv then .error .badStart else .ok ()

/-- The instruction of a frame with an empty payload (R103). -/
def decodeEmptyRequest (h : Header) (rest : Bytes) (i : Byte → Instr) : Except DecodeError Instr := do
  requestHeader h
  if h.len ≠ 0 then .error .badLength
  else
    let _ ← exactPayload 0 rest
    .ok (i h.opcode)

/-- The instruction of a header and the bytes after it, for the row `r`. -/
def decodeFrame (r : Role) (h : Header) (rest all : Bytes) : Except DecodeError Instr :=
  match r with
  | .serialize => do
    let p ← exactPayload h.len rest
    .ok (.ser h.start h.opcode h.dir p)
  | .request => do
    requestHeader h
    let p ← exactPayload h.len rest
    .ok (.encodeRequest h.opcode p)
  | .response => do
    responseHeader h
    if all.length ≤ 65535 then .ok (.decodeResponse all) else .error .longPayload
  | .chunkRequest => do
    requestHeader h
    match ← exactPayload h.len rest with
    | c1 :: c0 :: k1 :: k0 :: x :: data =>
      .ok (.fwChunkRequest h.opcode (BitVec.ofNat 16 (ube [c1, c0])) (BitVec.ofNat 16 (ube [k1, k0])) (x :: data))
    | _ => .error .badLength
  | .chunkReply => do
    responseHeader h
    if h.len ≠ 2 then .error .badLength
    else
      match ← exactPayload h.len rest with
      | [r1, r0] => .ok (.fwChunkReply h.opcode h.dir (BitVec.ofNat 16 (ube [r1, r0])))
      | _ => .error .badLength
  | .clearRequest => decodeEmptyRequest h rest .clearStorageRequest
  | .clearReply => do
    responseHeader h
    if h.len ≠ 1 then .error .badLength
    else
      match ← exactPayload h.len rest with
      | [st] => .ok (.clearStorageReply h.opcode h.dir st)
      | _ => .error .badLength
  | .bootRequest => decodeEmptyRequest h rest .resetForBootRequest
  | .mcuResetRequest => decodeEmptyRequest h rest .resetMcuRequest

/-- The decoder: total on any bytes. -/
def decode (f : Format) (b : Bytes) : Except DecodeError Instr :=
  match f with
  | .cmd4 =>
    match b with
    | [] => .error .empty
    | [c] => if c.toNat < 16 then .ok (decodeCmd (c.setWidth 4)) else .error .wideCommand
    | _ => .error .wideCommand
  | .frame r =>
    match splitHeader b with
    | none => .error .shortHeader
    | some (h, rest) => decodeFrame r h rest b

/-- The command code of a host command (R104); for the frame rows there is none. -/
def cmdCode : Instr → Option (BitVec 4)
  | .nop => some 0
  | .openBus => some 1
  | .read => some 2
  | .writeValue => some 3
  | .writeBytes => some 4
  | .fwUpdate => some 5
  | .progressTake => some 6
  | .reserved7 => some 7
  | .reserved8ToF x => some (1#1 ++ x)
  | .ser _ _ _ _ => none
  | .encodeRequest _ _ => none
  | .decodeResponse _ => none
  | .fwChunkRequest _ _ _ _ => none
  | .fwChunkReply _ _ _ => none
  | .clearStorageRequest _ => none
  | .clearStorageReply _ _ _ => none
  | .resetForBootRequest _ => none
  | .resetMcuRequest _ => none

/-- The five header bytes of a frame with an `n`-byte payload (R91, R95). -/
def headerBytes (s o d : Byte) (n : Nat) : Bytes := [s, o, d] ++ be n 2

/-- The header and payload bytes of a frame, without its trailer. -/
def frameBody (s o d : Byte) (p : Bytes) : Bytes := headerBytes s o d p.length ++ p

/-- The one byte that carries a command code: the code in its four low bits. -/
def cmdByte (c : BitVec 4) : Bytes := [c.setWidth 8]

/-- The encoder: the row's format and the bytes of the instruction. -/
def encode : Instr → Format × Bytes
  | .nop => (.cmd4, cmdByte 0)
  | .openBus => (.cmd4, cmdByte 1)
  | .read => (.cmd4, cmdByte 2)
  | .writeValue => (.cmd4, cmdByte 3)
  | .writeBytes => (.cmd4, cmdByte 4)
  | .fwUpdate => (.cmd4, cmdByte 5)
  | .progressTake => (.cmd4, cmdByte 6)
  | .reserved7 => (.cmd4, cmdByte 7)
  | .reserved8ToF x => (.cmd4, cmdByte (1#1 ++ x))
  | .ser s o d p => (.frame .serialize, frameBody s o d p)
  | .encodeRequest o p => (.frame .request, frameBody Config.startSent o Config.dirReq p)
  | .decodeResponse b => (.frame .response, b)
  | .fwChunkRequest c n k data =>
    (.frame .chunkRequest, frameBody Config.startSent c Config.dirReq (be n.toNat 2 ++ be k.toNat 2 ++ data))
  | .fwChunkReply o d r => (.frame .chunkReply, frameBody Config.startRecv o d (be r.toNat 2))
  | .clearStorageRequest c => (.frame .clearRequest, frameBody Config.startSent c Config.dirReq [])
  | .clearStorageReply o d st => (.frame .clearReply, frameBody Config.startRecv o d [st])
  | .resetForBootRequest c => (.frame .bootRequest, frameBody Config.startSent c Config.dirReq [])
  | .resetMcuRequest c => (.frame .mcuResetRequest, frameBody Config.startSent c Config.dirReq [])

/-- The row a bare header stands for: of the rows whose pattern it matches, the one with the most fixed bits; rows with
the same pattern are told apart by the running operation only, and here the first of them in the table is taken. A DESIGN
CHOICE that only `decodeTableWord` uses, log entry 18. -/
def tableRole (h : Header) : Role :=
  if h.start = Config.startSent then
    if h.dir = Config.dirReq then (if h.len = 0 then .clearRequest else .request) else .serialize
  else if h.start = Config.startRecv then
    if h.len = 2 then .chunkReply else if h.len = 1 then .clearReply else .response
  else .serialize

/-- The operand bytes after a bare header, all zero: the payload, and for a received frame the default trailer. -/
def zeroOperands (h : Header) : Bytes :=
  match tableRole h with
  | .response => List.replicate (h.len + Config.params.trailerLen) 0
  | _ => List.replicate h.len 0

/-- The instruction the decoder reads from a word of the opcode table: a command code of 4 bits (held in one byte), or the
40 header bits of a frame as the table writes them, offset 0 in the most significant byte, with operand bytes of zeros
behind them. Log entry 18. -/
def decodeTableWord (nbits w : Nat) : Option Instr :=
  if nbits ≤ 8 then
    if w < 256 then (decode .cmd4 [BitVec.ofNat 8 w]).toOption else none
  else if nbits = 40 then
    if w < 2 ^ 40 then
      match splitHeader (be w 5) with
      | some (h, _) => (decode (.frame (tableRole h)) (be w 5 ++ zeroOperands h)).toOption
      | none => none
    else none
  else none

end Sys2Proof
end

