-- ==== Sys2Proof/Machine/Memory.lean ====
section
/-! DEFINITION. The byte-addressed memories of the engine, `IMG` (`20_memory.md` R61) and the host's `PBUF`
(`10_state.md` R24), as lists of address and byte pairs in one canonical form: addresses strictly rising, and no entry
equal to what an unlisted address reads as. -/

namespace Sys2Proof.Machine

/-- A byte-addressed memory. -/
abbrev Memory := List Host.Cell

/-- What an address that nothing has written reads as. The spec gives neither `IMG` nor `PBUF` a content at reset.
DESIGN CHOICE, log entry 9. -/
def Memory.unlisted : Byte := 0x00

/-- Strictly rising addresses, all at or above `lo`, and no entry that an unlisted address would read as. -/
def Memory.wfFrom (lo : Nat) : Memory → Bool
  | [] => true
  | (k, b) :: m => decide (lo ≤ k) && (decide (b ≠ Memory.unlisted) && Memory.wfFrom (k + 1) m)

/-- The canonical form. -/
def Memory.wf (m : Memory) : Bool := Memory.wfFrom 0 m

/-- The byte at address `a`. -/
def Memory.read : Memory → Nat → Byte
  | [], _ => Memory.unlisted
  | (k, b) :: m, a => if a = k then b else if a < k then Memory.unlisted else Memory.read m a

/-- Put an entry in front, unless an unlisted address reads as the same. -/
def Memory.cons (a : Nat) (b : Byte) (m : Memory) : Memory :=
  if b = Memory.unlisted then m else (a, b) :: m

/-- Write one byte, keeping the canonical form. -/
def Memory.write : Memory → Nat → Byte → Memory
  | [], a, b => Memory.cons a b []
  | (k, c) :: m, a, b =>
    if a < k then Memory.cons a b ((k, c) :: m)
    else if a = k then Memory.cons a b m
    else (k, c) :: Memory.write m a b

/-- Write a byte sequence from address `a` up, index 0 first (R65). -/
def Memory.writeSeq (m : Memory) (a : Nat) : Bytes → Memory
  | [] => m
  | b :: s => Memory.writeSeq (Memory.write m a b) (a + 1) s

/-- The `n` bytes at `a` to `a + n - 1`, lowest address first: `MemRead` (R61). -/
def Memory.readSeq (m : Memory) (a : Nat) : Nat → Bytes
  | 0 => []
  | n + 1 => Memory.read m a :: Memory.readSeq m (a + 1) n

end Sys2Proof.Machine
end

