-- ==== Sys2Proof/Machine/Codec.lean ====
section
/-! DEFINITION. The frame encoder and the frame decoder as pure functions (`40_frame_encoder.md`, `41_frame_decoder.md`):
they own no state (R20, R136, R150). -/

namespace Sys2Proof.Machine

/-- `CHK(s)` (R9, R97): exactly `TRAILER_LEN` bytes. -/
def chk (P : Params) (s : Bytes) : Bytes :=
  match P.trailer with
  | .crc16Xmodem => be (crc16 s).toNat 2
  | .custom extra k => (List.range (extra + 1)).map (Config.openChk k s)

/-- `SER(s, o, d, p)` (R130): header, payload, trailer. -/
def serialize (P : Params) (s o d : Byte) (p : Bytes) : Bytes :=
  frameBody s o d p ++ chk P (frameBody s o d p)

/-- A request frame of the engine (R131): start marker `0xCD` and direction `0x01`, whatever `D_DIR` holds. -/
def requestFrame (P : Params) (o : Byte) (p : Bytes) : Bytes :=
  serialize P Config.startSent o Config.dirReq p

/-- The check of `ENCODE_REQUEST` (R131, R132): the payload has the declared length and fits. -/
def payloadAccepted (P : Params) (declared : Half) (p : Bytes) : Bool :=
  p.length = declared.toNat ∧ p.length ≤ P.payloadMax

/-- `PACK(v, w)` (R133): `none` where it raises `InvalidPayloadLength`. -/
def pack (v : Word64) (w : Byte) : Option Bytes :=
  if w.toNat = 0 ∨ 8 < w.toNat then none else some (be v.toNat w.toNat)

/-- `CHUNK_PAYLOAD(c, k, data)` (R134, R101). -/
def chunkPayload (count id : Half) (data : Bytes) : Bytes :=
  be count.toNat 2 ++ be id.toNat 2 ++ data

/-- The frame a well-shaped buffer holds if its length field and trailer are right: the last three tests of R151 and the
payload extractor (R154). -/
def checkedFrame (P : Params) (b : Bytes) (h : Header) (rest : Bytes) : Option Frame :=
  if h.start ≠ Config.startRecv then none
  else if P.size h.len ≠ b.length then none
  else if chk P (b.take (Config.headerSize + h.len)) ≠ b.drop (Config.headerSize + h.len) then none
  else some ⟨h.opcode, h.dir, BitVec.ofNat 16 h.len, rest.take h.len⟩

/-- `DECODE_RESPONSE(b, e)` (R151): total, its one failure is `none` (R150, R157). -/
def decodeResponse (P : Params) (b : Bytes) (e : Half) : Option Frame :=
  if b.length = 0 then none
  else if b.length ≠ e.toNat then none
  else if b.length < P.frameMin then none
  else
    match splitHeader b with
    | none => none
    | some (h, rest) => checkedFrame P b h rest

/-- The views of a payload are defined for 1 to 8 bytes (R155, R156). -/
def viewsDefined (p : Bytes) : Bool := 1 ≤ p.length ∧ p.length ≤ 8

/-- `U(p)` where it is defined (R155). -/
def unsignedView (p : Bytes) : Word64 := zext64 (ube p)

/-- `S(p)` where it is defined (R156). -/
def signedView (p : Bytes) : Word64 := sext64 (sbe p)

/-- The chunk count of an image of `L` bytes in chunks of `C` (R207). -/
def chunkCountOf (L C : Nat) : Nat := L / C + (if L % C ≠ 0 then 1 else 0)

/-- The length `nk` of chunk `k` of `n` (R135). -/
def chunkLen (L C n k : Nat) : Nat := if k < n then C else L - (n - 1) * C

/-- The image address at which chunk `k` starts (R70, R135). -/
def chunkStart (C k : Nat) : Nat := (k - 1) * C

/-- `CHUNK_DATA(k)` (R135). -/
def chunkData (img : Memory) (L C n k : Nat) : Bytes :=
  Memory.readSeq img (chunkStart C k) (chunkLen L C n k)

/-- The progress percentage of chunk `k` of `n` (R218), in the 7 bits of `PROGRESS`. -/
def progressOf (k n : Half) : BitVec 7 := BitVec.ofNat 7 (k.toNat * 100 / n.toNat)

end Sys2Proof.Machine
end

