-- ==== Sys2Proof/Machine/State.lean ====
section
/-! DEFINITION. The state of the machine as plain data: every register of `10_state.md`, the image memory, the place in
the pseudocode, and, because a step takes no other argument, the parameters of `00_scope.md` R9, the transport's queued
answers and the host's coming moves. INVENTORY.md lists each with its rule and reset value. -/

namespace Sys2Proof.Machine

/-- `RSTATE` (R29). Values 6 and 7 are never taken (U10). -/
inductive RState where
  | idle
  | send
  | wait
  | read
  | check
  | backoff
deriving DecidableEq, Repr

/-- `FW_STATE` (R37). Value 7 is never taken (U10). -/
inductive FwState where
  | idle
  | erasing
  | bootRequested
  | streaming
  | finalizing
  | done
  | aborted
deriving DecidableEq, Repr

/-- `RES_KIND` (R34). Values 5 to 7 are never written (U10). -/
inductive ResKind where
  | none
  | ok
  | unavailable
  | violation
  | fatal
deriving DecidableEq, Repr

/-- The kinds of sleep (R174). -/
inductive SleepKind where
  | wait
  | backoff
  | settle
deriving DecidableEq, Repr

/-- The events of a run (`00_scope.md` R13). -/
inductive Event where
  /-- `W(bytes) -> Ok | Fault` -/
  | w (b : Bytes) (r : Ack)
  /-- `R(n) -> Bytes(b) | Fault` -/
  | r (n : Nat) (a : ReadAns)
  /-- `O(addr) -> Ok | Fault` -/
  | o (addr : Nat) (r : Ack)
  /-- `S(kind, ms)` -/
  | s (k : SleepKind) (ms : Word32)
  /-- `P(p)` -/
  | p (v : BitVec 7)
  /-- `E(kind, code)` -/
  | e (k : ResKind) (code : Byte)
deriving DecidableEq, Repr

/-- A sleep of the engine and, for the post-send delay, how the send before it ended (R175, R176, R205). -/
inductive Nap where
  | wait (sent : Ack)
  | backoff
  | settle
deriving DecidableEq, Repr

/-- What an acknowledged chunk leads to (R213, R215). -/
inductive AfterAck where
  | advance
  | finalize
deriving DecidableEq, Repr

/-- The place in the pseudocode: which action the engine takes next. The spec's control position is the tuple of
R27; the pseudocode of R170, R175 and R201 has more than one action at some of its values. Log entry 6. -/
inductive Pos where
  /-- no operation in progress -/
  | idle
  /-- `T_OPEN(BUS_ADDR)` (R170) -/
  | openCall
  /-- an operation of the opcode table's `FRAME` rows -/
  | op (i : Instr)
  /-- `T_WRITE` of the exchange's frame (R175) -/
  | send
  /-- the start of a sleep (R174) -/
  | startSleep (n : Nap)
  /-- in a sleep (R174) -/
  | sleeping (n : Nap)
  /-- `T_READ(X_RSIZE)` (R175) -/
  | recv
  /-- `DECODE_RESPONSE` of the bytes read (R175) -/
  | check
  /-- counting the chunks on entry to `Streaming` (R206 to R208) -/
  | countChunks
  /-- loading a chunk (R209) -/
  | loadChunk
  /-- holding for `PROGRESS_TAKE` (R219) -/
  | hold (a : AfterAck)
  /-- `Finalizing → Done` (R222) -/
  | finish
deriving DecidableEq, Repr

/-- A host write to an operand register (R23 to R25), to bytes of `PBUF` (R24), or of the image (R61). -/
inductive RegWrite where
  | dOpcode (v : Byte)
  | dDir (v : Byte)
  | dPlen (v : Half)
  | dRsize (v : Half)
  | timeoutMs (v : Word32)
  | value (v : Word64)
  | vwidth (v : Byte)
  | pbuf (a : Nat) (b : Bytes)
  | plen (v : Half)
  | busAddr (v : Nat)
  | imgLen (v : Word32)
  | fwBoot (v : Bool)
  | eraseTimeoutMs (v : Word32)
  | chunkTimeoutMs (v : Word32)
  | img (a : Nat) (b : Bytes)
deriving DecidableEq, Repr

/-- One move of the host between two engine steps. `pass` gives the turn to the engine. Log entry 5. -/
inductive HostMove where
  | pass
  | write (w : RegWrite)
  /-- a write of the 4-bit code to `CMD` (R26) -/
  | cmd (c : BitVec 4)
  /-- a reset of the engine (R270, R271) -/
  | reset
deriving DecidableEq, Repr

/-- The world outside the engine: the transport's queued answers (R12(c)), the host's coming moves (R12(b)), and the
event trace (R13). -/
structure Env where
  /-- answers the next `T_OPEN` and `T_WRITE` calls get -/
  ackQ : List Ack
  /-- answers the next `T_READ` calls get -/
  readQ : List ReadAns
  /-- how many free answers were drawn -/
  tick : Nat
  /-- the host's coming moves -/
  inputs : List HostMove
  /-- the events so far, oldest first -/
  trace : List Event
deriving DecidableEq, Repr

/-- The operand registers (R23 to R25): written by the host, read by the engine, never written by the engine (R22). -/
structure Operands where
  dOpcode : Byte
  dDir : Byte
  dPlen : Half
  dRsize : Half
  timeoutMs : Word32
  value : Word64
  vwidth : Byte
  pbuf : Memory
  plen : Half
  /-- `ADDR_W` bits, `ADDR_W` being a parameter: a number, cut to `ADDR_W` bits when written. Log entry 14. -/
  busAddr : Nat
  imgLen : Word32
  fwBoot : Bool
  eraseTimeoutMs : Word32
  chunkTimeoutMs : Word32
deriving DecidableEq, Repr

/-- The retry sequencer's registers (R29 to R31). -/
structure Sequencer where
  rstate : RState
  attempt : BitVec 4
  xRsize : Half
  xTimeout : Word32
  timer : Word32
  txbuf : Bytes
  txlen : BitVec 17
  rbuf : Bytes
  rlen : Half
deriving DecidableEq, Repr

/-- The result registers (R34). -/
structure Results where
  kind : ResKind
  code : Byte
  opcode : Byte
  dir : Byte
  len : Half
  payload : Bytes
  u : Word64
  s : Word64
  numValid : Bool
deriving DecidableEq, Repr

/-- The firmware transfer tracker's registers (R37 to R44). -/
structure Tracker where
  fwState : FwState
  chunkCount : Half
  chunkIndex : Half
  reqId : Half
  lastProgress : BitVec 7
  progress : BitVec 7
  progressValid : Bool
  /-- `FINAL` (R43) -/
  finalChunk : Bool
  fwErr : Byte
deriving DecidableEq, Repr

/-- The machine. -/
structure State where
  /-- the parameters of R9, which nothing writes. Log entry 1. -/
  params : Params
  /-- the image memory (R61) -/
  img : Memory
  /-- the world outside -/
  env : Env
  /-- `CMD` (R26): a written code the engine has not acted on yet. Log entry 7. -/
  cmd : Option (BitVec 4)
  /-- the operand registers -/
  regs : Operands
  /-- `BUSY` (R28) -/
  busy : Bool
  /-- the place in the pseudocode -/
  pos : Pos
  /-- the retry sequencer -/
  seq : Sequencer
  /-- the result registers -/
  res : Results
  /-- the firmware transfer tracker -/
  fw : Tracker
deriving DecidableEq, Repr

/-- The reasons a step faults. -/
inductive Fault where
  /-- A host write of `PBUF` or image bytes at an address that does not exist (R24, R61). Raised by the host's move only; safe: the
  run stops. Log entry 19. -/
  | hostAddress
  /-- A `MemRead` of image bytes at or beyond `IMG_LEN` (R61). Raised by the loading of a chunk; R209 shows it cannot happen
  in a session; safe: the run stops. Log entry 19. -/
  | imageRange
deriving DecidableEq, Repr

/-- The reasons a step refuses. -/
inductive Refusal where
  /-- Raised by an arm of `exec` whose instruction has no meaning yet; safe. No arm is in this case. -/
  | notModelled (mnemonic : String)
deriving DecidableEq, Repr

/-- The operand registers after reset (R48). -/
def Operands.reset : Operands where
  dOpcode := 0x00
  dDir := 0x00
  dPlen := 0
  dRsize := 0
  timeoutMs := 0
  value := 0
  vwidth := 0
  pbuf := []
  plen := 0
  busAddr := 0
  imgLen := 0
  fwBoot := false
  eraseTimeoutMs := 0
  chunkTimeoutMs := 0

/-- The retry sequencer after reset (R48). The contents of the two buffers are unspecified: log entry 10. -/
def Sequencer.reset : Sequencer where
  rstate := .idle
  attempt := 0
  xRsize := 0
  xTimeout := 0
  timer := 0
  txbuf := []
  txlen := 0
  rbuf := []
  rlen := 0

/-- The result registers after reset (R48). -/
def Results.reset : Results where
  kind := .none
  code := 0x00
  opcode := 0
  dir := 0
  len := 0
  payload := []
  u := 0
  s := 0
  numValid := false

/-- The firmware transfer tracker after reset (R48). -/
def Tracker.reset : Tracker where
  fwState := .idle
  chunkCount := 0
  chunkIndex := 0
  reqId := 0
  lastProgress := 0
  progress := 0
  progressValid := false
  finalChunk := false
  fwErr := 0x00

/-- The machine right after reset (R48, R270): nothing queued from outside, nothing traced. -/
def State.reset : State where
  params := Config.params
  img := []
  env := { ackQ := [], readQ := [], tick := 0, inputs := [], trace := [] }
  cmd := none
  regs := Operands.reset
  busy := false
  pos := .idle
  seq := Sequencer.reset
  res := Results.reset
  fw := Tracker.reset

end Sys2Proof.Machine
end

