-- ==== Sys2Proof/Machine/Flags.lean ====
section
/-! DEFINITION. The engine has no arithmetic condition codes (R32). Here stand the numeric values of its state and result
registers, the cause codes (`60_exceptions.md` R241), and how the flags `RES_NUM_VALID` and `FINAL` are computed. -/

namespace Sys2Proof.Machine

/-- The numeric value of `RSTATE` (R29). -/
def rstateCode : RState → BitVec 3
  | .idle => 0
  | .send => 1
  | .wait => 2
  | .read => 3
  | .check => 4
  | .backoff => 5

/-- The numeric value of `FW_STATE` (R37). -/
def fwStateCode : FwState → BitVec 3
  | .idle => 0
  | .erasing => 1
  | .bootRequested => 2
  | .streaming => 3
  | .finalizing => 4
  | .done => 5
  | .aborted => 6

/-- The numeric value of `RES_KIND` (R34). -/
def resKindCode : ResKind → BitVec 3
  | .none => 0
  | .ok => 1
  | .unavailable => 2
  | .violation => 3
  | .fatal => 4

/-- The causes of a violation or a fatal error (R241). -/
inductive Cause where
  | invalidPayloadLength
  | reservedCommand
  | storageClearFailed
  | chunkNoResponse
  | uninterpretableRequest
  | emptyImage
  | imageTooLarge
deriving DecidableEq, Repr

/-- `RES_CODE` of a cause (R241). -/
def causeCode : Cause → Byte
  | .invalidPayloadLength => 0x01
  | .reservedCommand => 0x02
  | .storageClearFailed => 0x10
  | .chunkNoResponse => 0x11
  | .uninterpretableRequest => 0x12
  | .emptyImage => 0x13
  | .imageTooLarge => 0x14

/-- The result registers of an accepted response frame (R180, R154 to R156): the views are written only where they are
defined, and `RES_NUM_VALID` says so. -/
def frameResults (f : Frame) (r : Results) : Results :=
  { r with
    opcode := f.opcode
    dir := f.dir
    len := f.len
    payload := f.payload
    u := if viewsDefined f.payload then unsignedView f.payload else r.u
    s := if viewsDefined f.payload then signedView f.payload else r.s
    numValid := viewsDefined f.payload }

/-- `FINAL` for chunk `k` of `n` (R43, R209). -/
def isFinalChunk (k n : Half) : Bool := k = n

end Sys2Proof.Machine
end

