-- ==== Sys2Proof/Machine/Operands.lean ====
section
/-! DEFINITION. The operand registers: the host's writes to them (R22 to R26), the operand of each command as the engine
samples it, and what the host can read (R28 to R44, decision D10). -/

namespace Sys2Proof.Machine

/-- Image addresses are 32-bit numbers (`IMG_LEN_W`, R9). -/
def imgSpace : Nat := 2 ^ 32

/-- Every byte of a host write stands at an address that exists: below `PAYLOAD_MAX` in `PBUF` (R24), below `2^32` in the
image (R61). Log entry 19. -/
def writeInRange (P : Params) : RegWrite → Bool
  | .pbuf a b => a + b.length ≤ P.payloadMax
  | .img a b => a + b.length ≤ imgSpace
  | _ => true

/-- A host write to an operand register while the engine is not busy (R26); `BUS_ADDR` has `ADDR_W` bits (R24). -/
def writeReg (P : Params) (w : RegWrite) (r : Operands) : Operands :=
  match w with
  | .dOpcode v => { r with dOpcode := v }
  | .dDir v => { r with dDir := v }
  | .dPlen v => { r with dPlen := v }
  | .dRsize v => { r with dRsize := v }
  | .timeoutMs v => { r with timeoutMs := v }
  | .value v => { r with value := v }
  | .vwidth v => { r with vwidth := v }
  | .pbuf a b => { r with pbuf := Memory.writeSeq r.pbuf a b }
  | .plen v => { r with plen := v }
  | .busAddr v => { r with busAddr := v % 2 ^ P.addrW }
  | .imgLen v => { r with imgLen := v }
  | .fwBoot v => { r with fwBoot := v }
  | .eraseTimeoutMs v => { r with eraseTimeoutMs := v }
  | .chunkTimeoutMs v => { r with chunkTimeoutMs := v }
  | .img _ _ => r

/-- The host's load of image bytes (R61). -/
def writeImg (w : RegWrite) (m : Memory) : Memory :=
  match w with
  | .img a b => Memory.writeSeq m a b
  | _ => m

/-- The payload of `WRITE_BYTES` (R182): `PBUF[0 ..< PLEN]`. -/
def pbufPayload (r : Operands) : Bytes := Memory.readSeq r.pbuf 0 r.plen.toNat

/-- The payload of `WRITE_VALUE` (R181): `PACK(VALUE, VWIDTH)`. -/
def valuePayload (r : Operands) : Option Bytes := pack r.value r.vwidth

/-- What the host can read: the status, result and tracker registers, `RSTATE`, `RES_KIND` and `FW_STATE` as their numbers too, but not
`TXBUF`, `RBUF`, the timer or the other working registers of R31. A read has no side effect (D10, R258). -/
structure HostView where
  busy : Bool
  rstate : BitVec 3
  attempt : BitVec 4
  resKind : BitVec 3
  res : Results
  fwState : BitVec 3
  fw : Tracker
deriving DecidableEq, Repr

/-- The host-readable registers (R28, R29, R30, R34, R36, R37). -/
def hostView (s : State) : HostView :=
  { busy := s.busy
    rstate := rstateCode s.seq.rstate
    attempt := s.seq.attempt
    resKind := resKindCode s.res.kind
    res := s.res
    fwState := fwStateCode s.fw.fwState
    fw := s.fw }

end Sys2Proof.Machine
end

