-- ==== Sys2Proof/Machine/Ops.lean ====
section
/-! DEFINITION. The shared operations of the engine: the trace, the transport primitives and the sleep (`42_retry_sequencer.md`
section 1), the issue and the end of an operation, the error entries of `60_exceptions.md`, and the exchange's
bookkeeping. Every meaning and every engine step is written over these. -/

namespace Sys2Proof.Machine

/-- What a step answers. -/
abbrev Result := Host.Outcome State Fault Refusal

/-! ## The trace and the control position -/

/-- Append an event to the trace (R13). -/
def emit (e : Event) (s : State) : State :=
  { s with env := { s.env with trace := s.env.trace ++ [e] } }

/-- Move to a place of the pseudocode. -/
def goto (p : Pos) (s : State) : State := { s with pos := p }

/-- `RSTATE <- r` (R15). -/
def setRState (r : RState) (s : State) : State := { s with seq := { s.seq with rstate := r } }

/-- `FW_STATE <- f` (R15). -/
def setFwState (f : FwState) (s : State) : State := { s with fw := { s.fw with fwState := f } }

/-! ## The transport primitives (R170 to R173)

An answer is the next queued one, or a free value when none is queued (R12(c), log entry 4). -/

/-- The answer the next `T_OPEN` or `T_WRITE` gets. -/
def nextAck (s : State) : Ack :=
  match s.env.ackQ with
  | [] => Config.freeAck s.env.tick
  | a :: _ => a

/-- That answer is used up. -/
def dropAck (s : State) : State :=
  match s.env.ackQ with
  | [] => { s with env := { s.env with tick := s.env.tick + 1 } }
  | _ :: q => { s with env := { s.env with ackQ := q } }

/-- A transport never returns more than it was asked for (R67, R173, decision D32). Log entry 16. -/
def cutAns (n : Nat) : ReadAns → ReadAns
  | .fault => .fault
  | .bytes b => .bytes (b.take n)

/-- The answer the next `T_READ(n)` gets. -/
def nextRead (n : Nat) (s : State) : ReadAns :=
  match s.env.readQ with
  | [] => cutAns n (Config.freeRead s.env.tick)
  | a :: _ => cutAns n a

/-- That answer is used up. -/
def dropRead (s : State) : State :=
  match s.env.readQ with
  | [] => { s with env := { s.env with tick := s.env.tick + 1 } }
  | _ :: q => { s with env := { s.env with readQ := q } }

/-- `T_OPEN(a)` (R171); it answers `nextAck s`. -/
def tOpen (a : Nat) (s : State) : State := emit (.o a (nextAck s)) (dropAck s)

/-- `T_WRITE(b)` (R172); it answers `nextAck s`. -/
def tWrite (b : Bytes) (s : State) : State := emit (.w b (nextAck s)) (dropAck s)

/-- The receive buffer after an answer (R173): the bytes returned, or `RLEN <- 0` on a fault. -/
def fillRbuf (a : ReadAns) (q : Sequencer) : Sequencer :=
  match a with
  | .fault => { q with rlen := 0 }
  | .bytes b => { q with rbuf := b, rlen := BitVec.ofNat 16 b.length }

/-- `T_READ(n)` (R173); it answers `nextRead n s`. -/
def tRead (n : Nat) (s : State) : State :=
  let s' := emit (.r n (nextRead n s)) (dropRead s)
  { s' with seq := fillRbuf (nextRead n s) s'.seq }

/-- The bytes of the receive buffer (R62): `RBUF[0 ..< RLEN]`. -/
def received (s : State) : Bytes := s.seq.rbuf.take s.seq.rlen.toNat

/-- The request frame of the running exchange (R62): `TXBUF[0 ..< TXLEN]`. -/
def toSend (s : State) : Bytes := s.seq.txbuf.take s.seq.txlen.toNat

/-! ## The sleep (R174) -/

/-- The kind a sleep is traced with. -/
def napKind : Nap → SleepKind
  | .wait _ => .wait
  | .backoff => .backoff
  | .settle => .settle

/-- The length of a sleep in ms (R175, R205). -/
def napMs (n : Nap) (s : State) : Word32 :=
  match n with
  | .wait _ => s.seq.xTimeout
  | .backoff => Config.backoffMs
  | .settle => Config.settleMs

/-- `TIMER <- ms`, with the event `S(kind, ms)`. -/
def beginSleep (n : Nap) (s : State) : State :=
  let s' := emit (.s (napKind n) (napMs n s)) s
  { s' with seq := { s'.seq with timer := napMs n s } }

/-- A tick of the 1 ms time base. -/
def tickTimer (s : State) : State := { s with seq := { s.seq with timer := s.seq.timer - 1 } }

/-! ## The issue and the end of an operation -/

/-- The issue of a command (R26): `BUSY <- 1`, `RES_KIND <- NONE`, `RES_CODE <- 0x00`. This is also all there is to a return from
an error (R252). -/
def issue (s : State) : State :=
  { s with busy := true, res := { s.res with kind := .none, code := 0x00 } }

/-- A command is issued when the engine is not busy and discarded when it is (R26). -/
def ifIdle (s : State) (run : State → State) : Result :=
  if s.busy then .next s else .next (run (issue s))

/-- The end of an operation with a result (R28, R34), the one way every operation ends; event `E(kind, code)`. -/
def endWith (k : ResKind) (code : Byte) (s : State) : State :=
  emit (.e k code) { s with busy := false, pos := .idle, res := { s.res with kind := k, code := code } }

/-- `raise Violation(code)` (R246). -/
def raiseViolation (c : Cause) (s : State) : State := endWith .violation (causeCode c) s

/-- Ending `UNAVAILABLE` (R247). -/
def endUnavailable (s : State) : State := endWith .unavailable 0x00 s

/-- `abort(code)` (R248). -/
def abort (c : Cause) (s : State) : State :=
  endWith .fatal (causeCode c)
    { s with
      fw := { s.fw with fwState := .aborted, fwErr := causeCode c, finalChunk := false }
      seq := { s.seq with rstate := .idle } }

/-! ## The exchange (R175) -/

/-- Who runs an exchange: an ordinary command, the erase (R202) or a chunk (R210). -/
inductive Caller where
  | command
  | erase
  | chunk
deriving DecidableEq, Repr

/-- The operation that waits for the exchange: `FW_STATE` tells. Log entry 23. -/
def caller (s : State) : Caller :=
  match s.fw.fwState with
  | .erasing => .erase
  | .streaming => .chunk
  | .idle => .command
  | .bootRequested => .command
  | .finalizing => .command
  | .done => .command
  | .aborted => .command

/-- The argument `rsize` of the exchange: `D_RSIZE` for an ordinary command (R180), `SIZE(1)` for the erase (R202), `SIZE(2)` for a
chunk (R210). -/
def exchangeSize (s : State) : Half :=
  match caller s with
  | .command => s.regs.dRsize
  | .erase => BitVec.ofNat 16 (s.params.size 1)
  | .chunk => BitVec.ofNat 16 (s.params.size 2)

/-- The argument `timeout` of the exchange (R180, R202, R210). -/
def exchangeTimeout (s : State) : Word32 :=
  match caller s with
  | .command => s.regs.timeoutMs
  | .erase => s.regs.eraseTimeoutMs
  | .chunk => s.regs.chunkTimeoutMs

/-- An exchange is next: its frame is made first, by `SER` (R131), and no register is written before that (R175). -/
def beginExchange (o : Byte) (p : Bytes) (s : State) : State :=
  goto (.op (.ser Config.startSent o Config.dirReq p)) s

/-- The start of `EXECUTE`, in the order of its pseudocode (R175): `TXBUF, TXLEN <- frame`, `X_RSIZE`, `X_TIMEOUT`,
`ATTEMPT <- 0`, `RSTATE <- R_SEND`; the first attempt is next. -/
def loadFrame (f : Bytes) (s : State) : State :=
  goto .send
    { s with seq := { s.seq with
        txbuf := f
        txlen := BitVec.ofNat 17 f.length
        xRsize := exchangeSize s
        xTimeout := exchangeTimeout s
        attempt := 0
        rstate := .send } }

/-- An attempt has failed: the backoff is next (R175, R242). -/
def attemptFailed (s : State) : State := goto (.startSleep .backoff) (setRState .backoff s)

/-- The result of an ordinary command from its accepted frame (R180). -/
def deliver (f : Frame) (s : State) : State :=
  endWith .ok 0x00 { s with res := frameResults f s.res }

/-- `EXECUTE` returns an accepted frame to its caller. A reply to the erase without a status byte cannot occur, its size being
`SIZE(1)`; it does not report success (R203, log entry 25). -/
def returnFrame (f : Frame) (s : State) : State :=
  match caller s with
  | .command => deliver f (setRState .idle s)
  | .erase =>
    match f.payload with
    | [] => abort .storageClearFailed s
    | st :: _ => goto (.op (.clearStorageReply f.opcode f.dir st)) (setRState .idle s)
  | .chunk =>
    goto (.op (.fwChunkReply f.opcode f.dir (BitVec.ofNat 16 (ube (f.payload.take 2))))) (setRState .idle s)

/-- `EXECUTE` returns `None` to its caller (R243): `UNAVAILABLE`, or the abort of the session (R203, R211). -/
def returnNone (s : State) : State :=
  match caller s with
  | .command => endUnavailable (setRState .idle s)
  | .erase => abort .storageClearFailed s
  | .chunk => abort .chunkNoResponse s

/-- After the backoff of a failed attempt: the end of the exchange after the tenth, else the next attempt (R175, R177). -/
def afterBackoff (s : State) : State :=
  if s.seq.attempt.toNat = Config.maxAttempts - 1 then returnNone s
  else goto .send { s with seq := { s.seq with attempt := s.seq.attempt + 1, rstate := .send } }

end Sys2Proof.Machine
end

