-- ==== Sys2Proof/Machine/Commands.lean ====
section
/-! DEFINITION. The host commands (`30_encoding.md` R104): what writing each code to `CMD` does. A command that needs the
transport is issued here and carried out by the engine's steps; while the engine is busy every command but
`PROGRESS_TAKE` is discarded (R26). -/

namespace Sys2Proof.Machine

/-- `NOP` (R183). -/
def execNop (s : State) : Result := ifIdle s (endWith .ok 0x00)

/-- `OPEN` (R170): the call of `T_OPEN` is next. -/
def execOpenBus (s : State) : Result := ifIdle s (goto .openCall)

/-- `READ` (R180): `ENCODE_REQUEST(D_OPCODE, [])` is next. -/
def execRead (s : State) : Result := ifIdle s (goto (.op (.encodeRequest s.regs.dOpcode [])))

/-- `WRITE_VALUE` (R181): `PACK` raises `InvalidPayloadLength` for a width it cannot supply (R133); else `ENCODE_REQUEST` of the
packed value is next. -/
def execWriteValue (s : State) : Result :=
  match valuePayload s.regs with
  | none => ifIdle s (raiseViolation .invalidPayloadLength)
  | some p => ifIdle s (goto (.op (.encodeRequest s.regs.dOpcode p)))

/-- `WRITE_BYTES` (R182): `ENCODE_REQUEST(D_OPCODE, PBUF[0 ..< PLEN])` is next. -/
def execWriteBytes (s : State) : Result :=
  ifIdle s (goto (.op (.encodeRequest s.regs.dOpcode (pbufPayload s.regs))))

/-- The tracker registers of a new session (R201, first lines). -/
def newSession (s : State) : State :=
  { s with fw := { Tracker.reset with fwState := .erasing } }

/-- `FW_UPDATE` (R201): a new session in `Erasing`, the clear-program-storage request next (R202). -/
def execFwUpdate (s : State) : Result :=
  ifIdle s (fun t => goto (.op (.clearStorageRequest s.params.opcClearStorage)) (newSession t))

/-- The progress value is taken (R220). -/
def takeProgress (s : State) : State := { s with fw := { s.fw with progressValid := false } }

/-- `PROGRESS_TAKE` (R220), the one command accepted while `BUSY = 1`: there it only clears `PROGRESS_VALID`; while
`BUSY = 0` it also ends at once with `RES_KIND <- OK`. -/
def execProgressTake (s : State) : Result :=
  if s.busy then .next (takeProgress s) else .next (endWith .ok 0x00 (takeProgress (issue s)))

/-- The reserved code 7 (R105). -/
def execReserved7 (s : State) : Result := ifIdle s (raiseViolation .reservedCommand)

/-- The reserved codes 8 to 15 (R105): the three low bits select nothing. -/
def execReserved8ToF (_x : BitVec 3) (s : State) : Result := ifIdle s (raiseViolation .reservedCommand)

end Sys2Proof.Machine
end

