-- ==== Sys2Proof/Machine/Frames.lean ====
section
/-! DEFINITION. The frame codec's rows: `SER`, `ENCODE_REQUEST`, `DECODE_RESPONSE` (`40_frame_encoder.md`,
`41_frame_decoder.md`), as the engine's steps run them inside an operation. The functions themselves write no state;
what is written here is what their caller stores (R131, R151, R175). Log entry 17. -/

namespace Sys2Proof.Machine

/-- `SER(s, o, d, p)` (R130): its frame starts the exchange (R175), whose first send is next. -/
def execSer (st o d : Byte) (p : Bytes) (s : State) : Result :=
  .next (loadFrame (serialize s.params st o d p) s)

/-- `ENCODE_REQUEST(o, p)` (R131) of an ordinary command: `InvalidPayloadLength` unless `|p| = D_PLEN` and
`|p| ≤ PAYLOAD_MAX` (R132), before anything is written (R246); else the exchange with `D_RSIZE` and `TIMEOUT_MS` begins
(R180). -/
def execEncodeRequest (o : Byte) (p : Bytes) (s : State) : Result :=
  if payloadAccepted s.params s.regs.dPlen p then
    .next (beginExchange o p s)
  else .next (raiseViolation .invalidPayloadLength s)

/-- `DECODE_RESPONSE(b, X_RSIZE)` (R151): `None` fails the attempt (R157); a frame goes to the exchange's caller. -/
def execDecodeResponse (b : Bytes) (s : State) : Result :=
  match decodeResponse s.params b s.seq.xRsize with
  | none => .next (attemptFailed s)
  | some f => .next (returnFrame f s)

end Sys2Proof.Machine
end

