-- ==== Sys2Proof/Machine/Tracker.lean ====
section
/-! DEFINITION. The firmware transfer tracker (`43_firmware_transfer.md`): its frame rows, entry to `Streaming`, loading a
chunk, and progress. -/

namespace Sys2Proof.Machine

/-- The clear-program-storage request (R202): an exchange with `SIZE(1)` and `ERASE_TIMEOUT_MS`. -/
def execClearStorageRequest (c : Byte) (s : State) : Result :=
  .next (beginExchange c [] s)

/-- Entry to `Streaming` (R206): the chunks are counted next. -/
def enterStreaming (s : State) : State := goto .countChunks (setFwState .streaming s)

/-- The accepted clear-program-storage reply (R203, R204, R206): a status other than `STATUS_OK` aborts; success goes on to the
boot request when `FW_BOOT = 1`, else to `Streaming`. The tracker reads neither the opcode nor the direction
byte (R153). -/
def execClearStorageReply (_o _d status : Byte) (s : State) : Result :=
  if status ≠ s.params.statusOk then .next (abort .storageClearFailed s)
  else if s.regs.fwBoot then
    .next (goto (.op (.resetForBootRequest s.params.opcResetForBoot)) (setFwState .bootRequested s))
  else .next (enterStreaming s)

/-- The reset-for-boot request (R204): one `T_WRITE` outside the retry sequencer, its answer ignored; the settle delay is next
(R205). -/
def execResetForBootRequest (c : Byte) (s : State) : Result :=
  .next (goto (.startSleep .settle) (tWrite (requestFrame s.params c []) s))

/-- The firmware chunk request (R210, R134): an exchange with `SIZE(2)` and `CHUNK_TIMEOUT_MS`. -/
def execFwChunkRequest (c : Byte) (count id : Half) (data : Bytes) (s : State) : Result :=
  .next (beginExchange c (chunkPayload count id data) s)

/-- What follows an acknowledged chunk once its progress value, if any, is taken: the next chunk (R213), or the end of
streaming (R215). -/
def proceed (a : AfterAck) (s : State) : State :=
  match a with
  | .advance => goto .loadChunk { s with fw := { s.fw with chunkIndex := s.fw.chunkIndex + 1 } }
  | .finalize =>
    goto (.op (.resetMcuRequest s.params.opcResetMcu))
      { s with fw := { s.fw with fwState := .finalizing, finalChunk := false } }

/-- Surface a progress value (R219): `LAST_PROGRESS`, `PROGRESS`, `PROGRESS_VALID`, event `P(p)`. -/
def surface (p : BitVec 7) (s : State) : State :=
  emit (.p p) { s with fw := { s.fw with lastProgress := p, progress := p, progressValid := true } }

/-- `acknowledge(k)` for the current chunk (R201, R218, R219), then `a`: at once if the value repeats, after the hold if it is
surfaced. -/
def acknowledge (a : AfterAck) (s : State) : State :=
  let p := progressOf s.fw.chunkIndex s.fw.chunkCount
  if p = s.fw.lastProgress then proceed a s else goto (.hold a) (surface p s)

/-- `REQ_ID <- r` (R212). -/
def setReqId (r : Half) (s : State) : State := { s with fw := { s.fw with reqId := r } }

/-- The accepted firmware chunk reply (R212): the sentinel first (R215), then the same chunk (R214), then the next one
(R213), compared without wrapping (R17(i)); every other id aborts (R216). -/
def execFwChunkReply (_o _d : Byte) (r : Half) (s : State) : Result :=
  let t := setReqId r s
  let k := s.fw.chunkIndex
  if r = Config.sentinel then .next (acknowledge .finalize t)
  else if r = k then .next (goto .loadChunk t)
  else if r.toNat = k.toNat + 1 ∧ k.toNat < s.fw.chunkCount.toNat then .next (acknowledge .advance t)
  else .next (abort .uninterpretableRequest t)

/-- The MCU reset request (R221): one `T_WRITE` outside the retry sequencer, its answer ignored; `Done` is next. -/
def execResetMcuRequest (c : Byte) (s : State) : Result :=
  .next (goto .finish (tWrite (requestFrame s.params c []) s))

/-- The chunk count of the image (R207). -/
def imageChunks (s : State) : Nat := chunkCountOf s.regs.imgLen.toNat s.params.chunkSize

/-- Counting the chunks (R206 to R208): an image of no chunk, or of more than `0xFFFE`, aborts; else `CHUNK_COUNT <- n`,
`CHUNK_INDEX <- 1`. -/
def countChunks (s : State) : State :=
  if imageChunks s = 0 then abort .emptyImage s
  else if 0xFFFE < imageChunks s then abort .imageTooLarge s
  else goto .loadChunk { s with fw := { s.fw with chunkCount := BitVec.ofNat 16 (imageChunks s), chunkIndex := 1 } }

/-- The bytes of chunk `CHUNK_INDEX` (R135, R209). -/
def currentChunk (s : State) : Bytes :=
  chunkData s.img s.regs.imgLen.toNat s.params.chunkSize s.fw.chunkCount.toNat s.fw.chunkIndex.toNat

/-- The chunk's addresses are image addresses (R61, R209). -/
def chunkInImage (s : State) : Bool :=
  chunkStart s.params.chunkSize s.fw.chunkIndex.toNat +
      chunkLen s.regs.imgLen.toNat s.params.chunkSize s.fw.chunkCount.toNat s.fw.chunkIndex.toNat ≤
    s.regs.imgLen.toNat

/-- Loading a chunk (R209): `FINAL`, then the chunk request is next. -/
def loadChunk (s : State) : Result :=
  if chunkInImage s then
    .next (goto (.op (.fwChunkRequest s.params.opcFwChunk s.fw.chunkCount s.fw.chunkIndex (currentChunk s)))
      { s with fw := { s.fw with finalChunk := isFinalChunk s.fw.chunkIndex s.fw.chunkCount } })
  else .fault .imageRange

/-- `Finalizing → Done` (R222). -/
def finishSession (s : State) : State := endWith .ok 0x00 (setFwState .done s)

end Sys2Proof.Machine
end

