-- ==== Sys2Proof/Machine/Dispatch.lean ====
section
/-! DEFINITION. One arm per row of the opcode table. -/

namespace Sys2Proof.Machine

def exec (i : Instr) (s : State) : Host.Outcome State Fault Refusal :=
  match i with
  | .nop => Sys2Proof.Machine.execNop s
  | .openBus => Sys2Proof.Machine.execOpenBus s
  | .read => Sys2Proof.Machine.execRead s
  | .writeValue => Sys2Proof.Machine.execWriteValue s
  | .writeBytes => Sys2Proof.Machine.execWriteBytes s
  | .fwUpdate => Sys2Proof.Machine.execFwUpdate s
  | .progressTake => Sys2Proof.Machine.execProgressTake s
  | .reserved7 => Sys2Proof.Machine.execReserved7 s
  | .reserved8ToF x => Sys2Proof.Machine.execReserved8ToF x s
  | .ser st o d p => Sys2Proof.Machine.execSer st o d p s
  | .encodeRequest o p => Sys2Proof.Machine.execEncodeRequest o p s
  | .decodeResponse b => Sys2Proof.Machine.execDecodeResponse b s
  | .fwChunkRequest c count id data => Sys2Proof.Machine.execFwChunkRequest c count id data s
  | .fwChunkReply o d id => Sys2Proof.Machine.execFwChunkReply o d id s
  | .clearStorageRequest c => Sys2Proof.Machine.execClearStorageRequest c s
  | .clearStorageReply o d status => Sys2Proof.Machine.execClearStorageReply o d status s
  | .resetForBootRequest c => Sys2Proof.Machine.execResetForBootRequest c s
  | .resetMcuRequest c => Sys2Proof.Machine.execResetMcuRequest c s

end Sys2Proof.Machine
end

