-- ==== Sys2Proof/Machine/Engine.lean ====
section
/-! DEFINITION. One step of the engine at its place in the pseudocode, and one move of the host. Each engine step is one action of
the pseudocode of R170, R175 and R201 (R11). Log entries 6, 20. -/

namespace Sys2Proof.Machine

/-- `OPEN`'s transport call and result (R170). -/
def openCall (s : State) : State :=
  match nextAck s with
  | .ok => endWith .ok 0x00 (tOpen s.regs.busAddr s)
  | .fault => endUnavailable (tOpen s.regs.busAddr s)

/-- The send of an attempt (R175); the post-send delay is next whatever the answer (R176). -/
def sendRequest (s : State) : State :=
  goto (.startSleep (.wait (nextAck s))) (setRState .wait (tWrite (toSend s) s))

/-- A sleep is over: after the delay the read, skipped when the send failed (R175, R176); after the backoff the next
attempt or the end; after the settle delay `Streaming` (R205). -/
def endSleep (n : Nap) (s : State) : State :=
  match n with
  | .wait .ok => goto .recv (setRState .read s)
  | .wait .fault => attemptFailed s
  | .backoff => afterBackoff s
  | .settle => enterStreaming s

/-- A step inside a sleep (R174): a tick of the time base while `TIMER ≠ 0`, else the end of the sleep. -/
def sleepStep (n : Nap) (s : State) : State :=
  if s.seq.timer = 0 then endSleep n s else tickTimer s

/-- The read of an attempt (R175). -/
def recvResponse (s : State) : State :=
  goto .check (setRState .check (tRead s.seq.xRsize.toNat s))

/-- The hold for `PROGRESS_TAKE` (R219): nothing happens until the value is taken. -/
def holdStep (a : AfterAck) (s : State) : State :=
  if s.fw.progressValid then s else proceed a s

/-- One step of the engine. -/
def engineStep (s : State) : Result :=
  match s.pos with
  | .idle => .next s
  | .openCall => .next (openCall s)
  | .op i => exec i s
  | .send => .next (sendRequest s)
  | .startSleep n => .next (goto (.sleeping n) (beginSleep n s))
  | .sleeping n => .next (sleepStep n s)
  | .recv => .next (recvResponse s)
  | .check => exec (.decodeResponse (received s)) s
  | .countChunks => .next (countChunks s)
  | .loadChunk => loadChunk s
  | .hold a => .next (holdStep a s)
  | .finish => .next (finishSession s)

/-- A reset of the engine (R270, R271): every register of `10_state.md` takes its reset value, the running operation ends with no
result. What is outside the engine stays: the parameters, the image, the transport, the host's coming moves, the
trace. Log entry 21. -/
def resetEngine (s : State) : State :=
  { State.reset with params := s.params, img := s.img, env := s.env }

/-- A host write to an operand register or the image (R26): discarded while `BUSY = 1`. Log entries 13, 19. -/
def hostWrite (w : RegWrite) (s : State) : Result :=
  if s.busy then .next s
  else if writeInRange s.params w then
    .next { s with regs := writeReg s.params w s.regs, img := writeImg w s.img }
  else .fault .hostAddress

/-- One move of the host, or of the engine when the host passes. -/
def hostMove (m : HostMove) (s : State) : Result :=
  match m with
  | .pass => engineStep s
  | .write w => hostWrite w s
  | .cmd c => .next { s with cmd := some c }
  | .reset => .next (resetEngine s)

/-- The host's next move is taken from the list. -/
def dropInput (s : State) : State := { s with env := { s.env with inputs := s.env.inputs.tail } }

/-- The command strobe is acted on (R26). -/
def dropCmd (s : State) : State := { s with cmd := none }

/-- One step of the machine: a written command code first, then the host's next move, then, when the host has none, the
engine. Log entries 5, 7. -/
def machineStep (s : State) : Result :=
  match s.cmd with
  | some c => exec (decodeCmd c) (dropCmd s)
  | none =>
    match s.env.inputs with
    | [] => engineStep s
    | m :: _ => hostMove m (dropInput s)

/-! ## Placing an instruction where the next step runs it -/

/-- The turn is the engine's: no command code waits, and the host passes. -/
def engineTurn (s : State) : State :=
  match s.env.inputs with
  | [] => { s with cmd := none }
  | q => { s with cmd := none, env := { s.env with inputs := .pass :: q } }

/-- The engine is about to run the operation `i`. A received frame is run from the receive buffer, every other operation from the
place in the pseudocode. -/
def placeOp (i : Instr) (s : State) : State :=
  match i with
  | .decodeResponse b =>
    { s with
      busy := true
      pos := .check
      seq := { s.seq with rbuf := b, rlen := BitVec.ofNat 16 b.length } }
  | _ => { s with busy := true, pos := .op i }

/-- Put a command code into `CMD`, or an operation of a `FRAME` row before the engine; a word that is no instruction changes
nothing. Log entries 17, 18. -/
def placeWord (nbits w : Nat) (s : State) : State :=
  match decodeTableWord nbits w with
  | none => s
  | some i =>
    match cmdCode i with
    | some c => { s with cmd := some c }
    | none => placeOp i (engineTurn s)

end Sys2Proof.Machine
end

