-- ==== Sys2Proof/Machine/Pseudocode.lean ====
section
/-! DEFINITION. The pseudocode of `EXECUTE` (`42_retry_sequencer.md` R175) run in one go, as the spec writes it: the reference the
step-by-step retry sequencer is held against. The machine does not call it. -/

namespace Sys2Proof.Machine

/-- A whole sleep: `S(kind, ms)`, after which `TIMER = 0` (R174). -/
def slept (n : Nap) (s : State) : State :=
  let s' := emit (.s (napKind n) (napMs n s)) s
  { s' with seq := { s'.seq with timer := 0 } }

/-- The read of an attempt and its decoding (R175). -/
def readAndDecode (s : State) : State × Option Frame :=
  let t := setRState .check (tRead s.seq.xRsize.toNat (setRState .read s))
  (t, decodeResponse t.params (received t) t.seq.xRsize)

/-- One attempt: send, delay, and after a send that did not fault the read and the decoding (R175, R176). -/
def attemptOnce (s : State) : State × Option Frame :=
  let t := slept (.wait (nextAck s)) (setRState .wait (tWrite (toSend s) s))
  match nextAck s with
  | .ok => readAndDecode t
  | .fault => (t, none)

/-- The loop of `EXECUTE` with `n` attempts left: the first frame accepted, or `None` after the last attempt; a backoff after
every failed attempt (R175, R177). -/
def executeLoop : Nat → State → State × Option Frame
  | 0, s => (s, none)
  | n + 1, s =>
    match attemptOnce s with
    | (t, some f) => (t, some f)
    | (t, none) =>
      let u := slept .backoff (setRState .backoff t)
      if n = 0 then (u, none)
      else executeLoop n { u with seq := { u.seq with attempt := u.seq.attempt + 1, rstate := .send } }

/-- The exchange's outcome given to its caller. -/
def giveBack (r : State × Option Frame) : State :=
  match r.2 with
  | some f => returnFrame f r.1
  | none => returnNone r.1

end Sys2Proof.Machine
end

