-- ==== Sys2Proof/Safety.lean ====
section
/-! DEFINITION. What the claims speak of: runs, a silent host, counts over the event trace, what the engine leaves alone, and the
invariant of the machine. -/

namespace Sys2Proof.Machine

/-! ## Runs -/

/-- `k` steps of the machine, stopping at the first fault or refusal. -/
def runFor : Nat → State → Result
  | 0, s => .next s
  | k + 1, s =>
    match step s with
    | .next t => runFor k t
    | .fault f => .fault f
    | .refused r => .refused r

/-- Some number of steps leads from `s` to `t`. -/
def Reaches (s t : State) : Prop := ∃ k, runFor k s = .next t

/-- The host makes no move: no code waits in `CMD` and none of its moves is due. -/
abbrev Quiet (s : State) : Prop := s.cmd = none ∧ s.env.inputs = []

/-! ## The event trace (R13) -/

/-- The number of `T_WRITE` calls. -/
def countW : List Event → Nat
  | [] => 0
  | .w _ _ :: es => countW es + 1
  | _ :: es => countW es

/-- The number of `T_READ` calls. -/
def countR : List Event → Nat
  | [] => 0
  | .r _ _ :: es => countR es + 1
  | _ :: es => countR es

/-- The total of the sleeps of a kind, in ms. -/
def sleepTotal (k : SleepKind) : List Event → Nat
  | [] => 0
  | .s k' ms :: es => (if k' = k then ms.toNat else 0) + sleepTotal k es
  | _ :: es => sleepTotal k es

/-! ## What an operation leaves alone -/

/-- Every byte of the image and of `PBUF` reads as before. -/
def SameMemory (s t : State) : Prop :=
  (∀ a, Memory.read t.img a = Memory.read s.img a) ∧ ∀ a, Memory.read t.regs.pbuf a = Memory.read s.regs.pbuf a

/-- What no operation of the engine writes: the parameters, the image (R61), the operand registers (R22), the command strobe
and the host's coming moves. -/
def SameOutside (s t : State) : Prop :=
  t.params = s.params ∧ t.img = s.img ∧ t.regs = s.regs ∧ t.cmd = s.cmd ∧ t.env.inputs = s.env.inputs

/-! ## The invariant -/

/-- The states in which no firmware session is under way (R37). -/
def resting : FwState → Bool
  | .idle => true
  | .done => true
  | .aborted => true
  | .erasing => false
  | .bootRequested => false
  | .streaming => false
  | .finalizing => false

/-- The states in which an exchange may run (R175): under an ordinary command, the erase or a chunk. -/
def exchanging (f : FwState) : Bool := resting f || f = .erasing || f = .streaming

/-- Places inside an exchange, after its frame is in `TXBUF`. -/
def inExchange : Pos → Bool
  | .send => true
  | .startSleep (.wait _) => true
  | .sleeping (.wait _) => true
  | .recv => true
  | .check => true
  | .startSleep .backoff => true
  | .sleeping .backoff => true
  | _ => false

/-- The value of `RSTATE` at each place (R29). -/
def rstateAt : Pos → RState
  | .send => .send
  | .startSleep (.wait _) => .wait
  | .sleeping (.wait _) => .wait
  | .recv => .read
  | .check => .check
  | .startSleep .backoff => .backoff
  | .sleeping .backoff => .backoff
  | _ => .idle

/-- Which operations of the `FRAME` rows the engine runs from its place in the pseudocode, and in which `FW_STATE`. -/
def opAllowed (i : Instr) (f : FwState) : Bool :=
  match i with
  | .encodeRequest _ _ => resting f
  | .ser _ _ _ _ => exchanging f
  | .clearStorageRequest _ => f = .erasing
  | .clearStorageReply _ _ _ => f = .erasing
  | .resetForBootRequest _ => f = .bootRequested
  | .fwChunkRequest _ _ _ _ => f = .streaming
  | .fwChunkReply _ _ _ => f = .streaming
  | .resetMcuRequest _ => f = .finalizing
  | _ => false

/-- `FW_STATE` at each place (R200, R201). -/
def phaseAllowed (p : Pos) (f : FwState) : Bool :=
  match p with
  | .idle => resting f
  | .openCall => resting f
  | .op i => opAllowed i f
  | .send => exchanging f
  | .startSleep (.wait _) => exchanging f
  | .sleeping (.wait _) => exchanging f
  | .recv => exchanging f
  | .check => exchanging f
  | .startSleep .backoff => exchanging f
  | .sleeping .backoff => exchanging f
  | .startSleep .settle => f = .bootRequested
  | .sleeping .settle => f = .bootRequested
  | .countChunks => f = .streaming
  | .loadChunk => f = .streaming
  | .hold _ => f = .streaming
  | .finish => f = .finalizing

/-- The request an exchange may carry: any that fits for an ordinary command, the clear-storage request in `Erasing`
(R202), the current chunk in `Streaming` (R210, R225(e)). -/
def MayCarry (s : State) (o : Byte) (p : Bytes) : Prop :=
  p.length ≤ s.params.payloadMax ∧
    (s.fw.fwState = .erasing → o = s.params.opcClearStorage ∧ p = []) ∧
    (s.fw.fwState = .streaming →
      o = s.params.opcFwChunk ∧ p = chunkPayload s.fw.chunkCount s.fw.chunkIndex (currentChunk s))

/-- The operands of the operation the engine is about to run are those the session's registers give. -/
def OpOperands (s : State) : Instr → Prop
  | .ser st o d p => st = Config.startSent ∧ d = Config.dirReq ∧ MayCarry s o p
  | .clearStorageRequest c => c = s.params.opcClearStorage
  | .resetForBootRequest c => c = s.params.opcResetForBoot
  | .resetMcuRequest c => c = s.params.opcResetMcu
  | .fwChunkRequest c n k data =>
    c = s.params.opcFwChunk ∧ n = s.fw.chunkCount ∧ k = s.fw.chunkIndex ∧ data = currentChunk s
  | _ => True

/-- The invariant of the machine: what holds at reset and what every step keeps. -/
structure Invariant (s : State) : Prop where
  /-- the parameters meet the constraints of R9 -/
  params_wf : s.params.wf
  /-- both memories keep their canonical form -/
  img_wf : Memory.wf s.img = true
  pbuf_wf : Memory.wf s.regs.pbuf = true
  /-- `BUS_ADDR` has `ADDR_W` bits (R24) -/
  addr_fits : s.regs.busAddr < 2 ^ s.params.addrW
  /-- `BUSY` is 1 exactly while an operation is in progress (R28) -/
  busy_iff : s.busy = true ↔ s.pos ≠ .idle
  /-- `RSTATE` shows the phase of the exchange (R29) -/
  rstate_eq : s.seq.rstate = rstateAt s.pos
  /-- `ATTEMPT` is 0 to 9 (R30) -/
  attempt_le : s.seq.attempt.toNat ≤ 9
  /-- `TIMER` runs only in a sleep (R174) -/
  timer_zero : s.seq.timer ≠ 0 → ∃ n, s.pos = .sleeping n
  /-- the place and `FW_STATE` agree (R200) -/
  phase : phaseAllowed s.pos s.fw.fwState = true
  /-- the operation about to run has the session's operands -/
  op_operands : ∀ i, s.pos = .op i → OpOperands s i
  /-- the transmit buffer of a running exchange holds a request the operation may send -/
  carries : inExchange s.pos = true → ∃ o p, MayCarry s o p ∧ toSend s = requestFrame s.params o p
  /-- it has the expected size and the delay of its operation (R180, R202, R210) -/
  expects : inExchange s.pos = true → s.seq.xRsize = exchangeSize s ∧ s.seq.xTimeout = exchangeTimeout s
  /-- while streaming the index is within the count, which is the image's (R38, R39, R207) -/
  index_range : s.fw.fwState = .streaming → s.pos ≠ .countChunks →
    1 ≤ s.fw.chunkIndex.toNat ∧ s.fw.chunkIndex.toNat ≤ s.fw.chunkCount.toNat ∧ s.fw.chunkCount.toNat ≤ 0xFFFE ∧
      s.fw.chunkCount.toNat = imageChunks s
  /-- the last surfaced value is not above the current chunk's (R218, R219) -/
  progress_le : s.fw.fwState = .streaming → s.pos ≠ .countChunks →
    s.fw.lastProgress.toNat ≤ s.fw.chunkIndex.toNat * 100 / s.fw.chunkCount.toNat
  /-- `PROGRESS` and `LAST_PROGRESS` are 0 to 100 (R41, R42) -/
  progress_range : s.fw.lastProgress.toNat ≤ 100 ∧ s.fw.progress.toNat ≤ 100
  /-- a value is on offer only during a hold (R42) -/
  valid_held : s.fw.progressValid = true → ∃ a, s.pos = .hold a
  /-- a hold before the next chunk has a next chunk (R213) -/
  hold_advance : s.pos = .hold .advance → s.fw.chunkIndex.toNat < s.fw.chunkCount.toNat
  /-- a hold before finalizing, `Finalizing` and `Done` come after the sentinel only (R215, R225(c)) -/
  hold_sentinel : s.pos = .hold .finalize → s.fw.reqId = Config.sentinel
  done_sentinel : s.fw.fwState = .finalizing ∨ s.fw.fwState = .done → s.fw.reqId = Config.sentinel
  /-- `FINAL` is 1 only while the last chunk is being sent (R43) -/
  final_last : s.fw.finalChunk = true →
    s.fw.fwState = .streaming ∧ s.pos ≠ .countChunks ∧ s.fw.chunkIndex = s.fw.chunkCount
  /-- `FW_ERR` is 0 unless `FW_STATE = Aborted` (R44) -/
  err_aborted : s.fw.fwErr ≠ 0 → s.fw.fwState = .aborted
  /-- no value is surfaced before the first chunk (R201, R219) -/
  progress_fresh : s.fw.fwState = .erasing ∨ s.fw.fwState = .bootRequested ∨ s.pos = .countChunks →
    s.fw.lastProgress = 0

/-- The transitions of `FW_STATE` in one step (R200); any other step leaves it alone. -/
def fwTransition : FwState → FwState → Bool
  | .idle, .erasing => true
  | .done, .erasing => true
  | .aborted, .erasing => true
  | .erasing, .bootRequested => true
  | .erasing, .streaming => true
  | .erasing, .aborted => true
  | .bootRequested, .streaming => true
  | .streaming, .aborted => true
  | .streaming, .finalizing => true
  | .finalizing, .done => true
  | _, _ => false

end Sys2Proof.Machine
end

