-- ==== Sys2Proof/Certificates/Slice0/Obligations.lean ====
section
/-! DEFINITION. The statements about the model, one definition each. `OBLIGATIONS.json` names the rules they rest on. -/

open Sys2Proof Sys2Proof.Machine

/-! ## Decoding and the step -/

/-- A step runs the instruction it finds: the command a written code stands for, the operation at the engine's place, and `DECODE_RESPONSE`
of the received bytes. While the host is silent, or passes, a step is the engine's. A code the host writes to `CMD` (R26) stands
there after the step, busy or not, and nothing else changes; that it is acted on by the next step and not by this one is
the model's reading (log entry 7). -/
def Obligations.StepRunsTheDecodedInstruction : Prop :=
  (∀ (s : State) (c : BitVec 4), s.cmd = some c → step s = exec (decodeCmd c) { s with cmd := none }) ∧
  (∀ (s : State) (i : Instr), Quiet s → s.pos = .op i → step s = exec i s) ∧
  (∀ s : State, Quiet s → s.pos = .check → step s = exec (.decodeResponse (received s)) s) ∧
  (∀ s : State, Quiet s → step s = engineStep s) ∧
  (∀ (s : State) (q : List HostMove), s.cmd = none → s.env.inputs = .pass :: q →
    step s = engineStep { s with env := { s.env with inputs := q } }) ∧
  (∀ (s : State) (c : BitVec 4) (q : List HostMove), s.cmd = none → s.env.inputs = .cmd c :: q →
    step s = .next { s with cmd := some c, env := { s.env with inputs := q } })

/-- A table word that decodes is run by the very next step from the state it is placed in, over the registers of the state it
is placed into. -/
def Obligations.PlacedWordIsRunNext : Prop :=
  ∀ (s : State) (nbits w : Nat) (i : Instr), decodeTableWord nbits w = some i →
    ∃ t, step (s.withFetchWord nbits w) = exec i t ∧ t.params = s.params ∧ t.img = s.img ∧ t.regs = s.regs ∧
      t.res = s.res ∧ t.fw = s.fw ∧ t.env.trace = s.env.trace ∧ t.cmd = none

/-- Words of the opcode table and what they decode to. -/
def Obligations.TableWordsDecode : Prop :=
  decodeTableWord 8 0x2 = some .read ∧ decodeTableWord 8 0x5 = some .fwUpdate ∧
  decodeTableWord 8 0xB = some (.reserved8ToF 3) ∧
  decodeTableWord 40 0xDC0E020002 = some (.fwChunkReply 0x0E 0x02 0) ∧
  decodeTableWord 40 0xCD0C010002 = some (.encodeRequest 0x0C [0, 0])

/-- Decoding the encoding of a well-formed instruction gives the instruction back: no operand bit is lost. -/
def Obligations.DecodeEncodeAgree : Prop :=
  ∀ i : Instr, i.wf = true → decode (encode i).1 (encode i).2 = .ok i

/-- Whatever decodes is the encoding of what it decodes to, and that is well formed: no two byte sequences of a format have one
meaning, and no bit is ignored. -/
def Obligations.EncodeDecodeAgree : Prop :=
  ∀ (f : Format) (b : Bytes) (i : Instr), decode f b = .ok i → encode i = (f, b) ∧ i.wf = true

/-! ## The host commands -/

/-- `NOP` ends at once with `OK` and changes nothing but the result (the spec's own command, decision D10). -/
def Obligations.NopEndsAtOnce : Prop :=
  ∀ s : State, s.busy = false → s.pos = .idle →
    exec .nop s = .next { s with
      res := { s.res with kind := .ok, code := 0x00 }
      env := { s.env with trace := s.env.trace ++ [.e .ok 0x00] } }

/-- `OPEN` is issued, calls `T_OPEN(BUS_ADDR)` once, and reports the answer: `Ok` as `OK`, `Fault` as `UNAVAILABLE` without a retry
(decision D12). Nothing else of the machine changes but the used-up answer. -/
def Obligations.OpenReportsTheTransportAnswer : Prop :=
  ∀ s : State, s.busy = false →
    ∃ t, exec .openBus s = .next t ∧
      t = { s with busy := true, pos := .openCall, res := { s.res with kind := .none, code := 0x00 } } ∧
      engineStep t = .next { s with
        busy := false
        pos := .idle
        res := { s.res with kind := (if nextAck s = .ok then .ok else .unavailable), code := 0x00 }
        env := { (dropAck s).env with
          trace := s.env.trace ++
            [.o s.regs.busAddr (nextAck s), .e (if nextAck s = .ok then .ok else .unavailable) 0x00] } }

/-- `READ` is issued: `BUSY`, a cleared result, and `ENCODE_REQUEST(D_OPCODE, [])` next; nothing else changes. -/
def Obligations.ReadIssuesAnEmptyRequest : Prop :=
  ∀ s : State, s.busy = false →
    exec .read s = .next { s with
      busy := true
      pos := .op (.encodeRequest s.regs.dOpcode [])
      res := { s.res with kind := .none, code := 0x00 } }

/-- `WRITE_VALUE` is issued with the low `VWIDTH` bytes of `VALUE`, most significant first, as its payload; a width of 0 or above 8
ends it at once with `InvalidPayloadLength` and no bus event (decision D6). -/
def Obligations.WriteValuePacksOrViolates : Prop :=
  ∀ s : State, s.busy = false →
    (1 ≤ s.regs.vwidth.toNat → s.regs.vwidth.toNat ≤ 8 →
      exec .writeValue s = .next { s with
        busy := true
        pos := .op (.encodeRequest s.regs.dOpcode (be s.regs.value.toNat s.regs.vwidth.toNat))
        res := { s.res with kind := .none, code := 0x00 } }) ∧
    (s.regs.vwidth.toNat = 0 ∨ 8 < s.regs.vwidth.toNat →
      exec .writeValue s = .next { s with
        busy := false
        pos := .idle
        res := { s.res with kind := .violation, code := 0x01 }
        env := { s.env with trace := s.env.trace ++ [.e .violation 0x01] } })

/-- `WRITE_BYTES` is issued with the first `PLEN` bytes of `PBUF` as its payload, in index order. -/
def Obligations.WriteBytesIssuesTheBuffer : Prop :=
  ∀ s : State, s.busy = false →
    ∃ p : Bytes, exec .writeBytes s = .next { s with
        busy := true
        pos := .op (.encodeRequest s.regs.dOpcode p)
        res := { s.res with kind := .none, code := 0x00 } } ∧
      p.length = s.regs.plen.toNat ∧
      ∀ j, j < p.length → p[j]? = some (Memory.read s.regs.pbuf j)

/-- The reserved codes end at once with `ReservedCommand` and change nothing else (decision D26). -/
def Obligations.ReservedCodesViolate : Prop :=
  ∀ (s : State) (i : Instr), s.busy = false → s.pos = .idle → (i = .reserved7 ∨ ∃ x, i = .reserved8ToF x) →
    exec i s = .next { s with
      res := { s.res with kind := .violation, code := 0x02 }
      env := { s.env with trace := s.env.trace ++ [.e .violation 0x02] } }

/-- `PROGRESS_TAKE` during a session clears `PROGRESS_VALID` and nothing else; while idle it also ends with `OK` (decision
D19). -/
def Obligations.ProgressTakeClearsTheOffer : Prop :=
  ∀ s : State,
    (s.busy = true → exec .progressTake s = .next { s with fw := { s.fw with progressValid := false } }) ∧
    (s.busy = false → s.pos = .idle → exec .progressTake s = .next { s with
      fw := { s.fw with progressValid := false }
      res := { s.res with kind := .ok, code := 0x00 }
      env := { s.env with trace := s.env.trace ++ [.e .ok 0x00] } })

/-- `FW_UPDATE` starts a session: every tracker register cleared, `Erasing`, and the clear-program-storage request next; from any
earlier state of the tracker (decision D24). -/
def Obligations.FwUpdateStartsASession : Prop :=
  ∀ s : State, s.busy = false →
    exec .fwUpdate s = .next { s with
      busy := true
      pos := .op (.clearStorageRequest s.params.opcClearStorage)
      res := { s.res with kind := .none, code := 0x00 }
      fw :=
        { fwState := .erasing, chunkCount := 0, chunkIndex := 0, reqId := 0, lastProgress := 0, progress := 0
          progressValid := false, finalChunk := false, fwErr := 0x00 } }

/-- While the engine is busy every command but `PROGRESS_TAKE` is discarded (decision D10). -/
def Obligations.BusyEngineDiscardsCommands : Prop :=
  ∀ (s : State) (i : Instr), s.busy = true → cmdCode i ≠ none → i ≠ .progressTake → exec i s = .next s

/-- The host's writes (decision D10). While the engine is busy each is discarded, whichever register it is for and image bytes too. Else each operand
register takes the value written, `BUS_ADDR` cut to `ADDR_W` bits; bytes written to `PBUF` or the image read back in order
and every other byte reads as before; nothing else changes. A write of bytes beyond the last address stops the run:
that, and that an image write while busy is discarded, are the model's choice (log entries 19, 13). -/
def Obligations.HostWritesPayloadBytes : Prop :=
  ∀ (s u : State) (w : RegWrite) (q : List HostMove),
    s.cmd = none → s.env.inputs = .write w :: q → u = { s with env := { s.env with inputs := q } } →
    (s.busy = true → step s = .next u) ∧
    (s.busy = false →
      (∀ v, w = .dOpcode v → step s = .next { u with regs := { s.regs with dOpcode := v } }) ∧
      (∀ v, w = .dDir v → step s = .next { u with regs := { s.regs with dDir := v } }) ∧
      (∀ v, w = .dPlen v → step s = .next { u with regs := { s.regs with dPlen := v } }) ∧
      (∀ v, w = .dRsize v → step s = .next { u with regs := { s.regs with dRsize := v } }) ∧
      (∀ v, w = .timeoutMs v → step s = .next { u with regs := { s.regs with timeoutMs := v } }) ∧
      (∀ v, w = .value v → step s = .next { u with regs := { s.regs with value := v } }) ∧
      (∀ v, w = .vwidth v → step s = .next { u with regs := { s.regs with vwidth := v } }) ∧
      (∀ v, w = .plen v → step s = .next { u with regs := { s.regs with plen := v } }) ∧
      (∀ v, w = .busAddr v → step s = .next { u with regs := { s.regs with busAddr := v % 2 ^ s.params.addrW } }) ∧
      (∀ v, w = .imgLen v → step s = .next { u with regs := { s.regs with imgLen := v } }) ∧
      (∀ v, w = .fwBoot v → step s = .next { u with regs := { s.regs with fwBoot := v } }) ∧
      (∀ v, w = .eraseTimeoutMs v → step s = .next { u with regs := { s.regs with eraseTimeoutMs := v } }) ∧
      (∀ v, w = .chunkTimeoutMs v → step s = .next { u with regs := { s.regs with chunkTimeoutMs := v } }) ∧
      (∀ (a : Nat) (b : Bytes), w = .pbuf a b →
        (s.params.payloadMax < a + b.length → step s = .fault .hostAddress) ∧
        (Memory.wf s.regs.pbuf = true → a + b.length ≤ s.params.payloadMax →
          ∃ m, step s = .next { u with regs := { s.regs with pbuf := m } } ∧
            (∀ j, j < b.length → some (Memory.read m (a + j)) = b[j]?) ∧
            (∀ x, x < a ∨ a + b.length ≤ x → Memory.read m x = Memory.read s.regs.pbuf x))) ∧
      (∀ (a : Nat) (b : Bytes), w = .img a b →
        (2 ^ 32 < a + b.length → step s = .fault .hostAddress) ∧
        (Memory.wf s.img = true → a + b.length ≤ 2 ^ 32 →
          ∃ m, step s = .next { u with img := m } ∧
            (∀ j, j < b.length → some (Memory.read m (a + j)) = b[j]?) ∧
            (∀ x, x < a ∨ a + b.length ≤ x → Memory.read m x = Memory.read s.img x))))

/-- The shadow of a command is bounded: from an idle engine with a code other than `FW_UPDATE` and `PROGRESS_TAKE` in `CMD` and a silent
host, the machine reaches the end of the operation, with a result and the operand registers, the image and the
firmware tracker (with `FW_ERR`) as they were. -/
def Obligations.OrdinaryCommandsEnd : Prop :=
  ∀ (s : State) (c : BitVec 4), s.cmd = some c → s.env.inputs = [] → s.busy = false → s.pos = .idle →
    resting s.fw.fwState = true → c ≠ 5 → c ≠ 6 →
    ∃ t, Reaches s t ∧ t.busy = false ∧ t.pos = .idle ∧ t.cmd = none ∧
      (t.res.kind = .ok ∨ t.res.kind = .unavailable ∨ t.res.kind = .violation) ∧
      t.params = s.params ∧ t.img = s.img ∧ t.regs = s.regs ∧ t.fw = s.fw

/-! ## The frame codec -/

/-- `SER` makes the frame: start, opcode and direction byte, the payload length as two bytes, most significant first, the payload, and `TRAILER_LEN`
bytes of checksum over all that comes before (the layout and the coverage are decisions D1, D2). `SER` itself writes no
state (R130). That its row runs as the start of `EXECUTE` (R175), which loads the transmit buffer with the frame, takes
the expected size and the delay of the operation that waits, sets `ATTEMPT` and `RSTATE` and puts the send next, is the
model's choice (log entry 17). Nothing else changes. -/
def Obligations.SerLoadsTheTransmitBuffer : Prop :=
  ∀ (s : State) (st o d : Byte) (p : Bytes) (rsize : Half) (timeout : Word32), p.length ≤ 65535 →
    (s.fw.fwState = .erasing ∧ rsize = BitVec.ofNat 16 (s.params.size 1) ∧ timeout = s.regs.eraseTimeoutMs ∨
      s.fw.fwState = .streaming ∧ rsize = BitVec.ofNat 16 (s.params.size 2) ∧ timeout = s.regs.chunkTimeoutMs ∨
      s.fw.fwState ≠ .erasing ∧ s.fw.fwState ≠ .streaming ∧ rsize = s.regs.dRsize ∧ timeout = s.regs.timeoutMs) →
    ∃ body trailer : Bytes,
      body = [st, o, d, BitVec.ofNat 8 (p.length / 256), BitVec.ofNat 8 p.length] ++ p ∧
      trailer = chk s.params body ∧ trailer.length = s.params.trailerLen ∧
      (body ++ trailer).length = s.params.size p.length ∧
      exec (.ser st o d p) s = .next { s with
        pos := .send
        seq := { s.seq with
          txbuf := body ++ trailer
          txlen := BitVec.ofNat 17 (s.params.size p.length)
          xRsize := rsize
          xTimeout := timeout
          attempt := 0
          rstate := .send } }

/-- `ENCODE_REQUEST`: a payload of another length than `D_PLEN`, or longer than `PAYLOAD_MAX` (decision D5), raises `InvalidPayloadLength`, code 0x01
(decision D11), before any byte is produced; else it writes nothing and its frame `SER(0xCD, o, 0x01, p)`, whatever
`D_DIR` holds, is made by the engine's next step, which starts the exchange of an ordinary command with `D_RSIZE` and
`TIMEOUT_MS` (R180). That the row begins the exchange and that `SER` runs as the next step is the model's choice (log
entry 17). -/
def Obligations.EncodeRequestChecksThenSerializes : Prop :=
  ∀ (s : State) (o : Byte) (p : Bytes),
    (p.length ≠ s.regs.dPlen.toNat ∨ s.params.payloadMax < p.length →
      exec (.encodeRequest o p) s = .next { s with
        busy := false
        pos := .idle
        res := { s.res with kind := .violation, code := 0x01 }
        env := { s.env with trace := s.env.trace ++ [.e .violation 0x01] } }) ∧
    (p.length = s.regs.dPlen.toNat → p.length ≤ s.params.payloadMax →
      ∃ t, exec (.encodeRequest o p) s = .next t ∧
        t = { s with pos := .op (.ser 0xCD o 0x01 p) } ∧
        (s.fw.fwState ≠ .erasing → s.fw.fwState ≠ .streaming → engineStep t = .next { t with
          pos := .send
          seq := { s.seq with
            txbuf := serialize s.params 0xCD o 0x01 p
            txlen := BitVec.ofNat 17 (serialize s.params 0xCD o 0x01 p).length
            xRsize := s.regs.dRsize
            xTimeout := s.regs.timeoutMs
            attempt := 0
            rstate := .send } }))

/-- The round trip of the codec with the inbound markers, for every checksum: the decoder recovers opcode, direction byte and payload of
every frame `SER` makes; on the request side the payload stands at offset 5. -/
def Obligations.DecoderRecoversSerializedFrames : Prop :=
  ∀ (P : Params) (o d : Byte) (p : Bytes), P.size p.length ≤ 65535 →
    decodeResponse P (serialize P Config.startRecv o d p) (BitVec.ofNat 16 (P.size p.length)) =
        some ⟨o, d, BitVec.ofNat 16 p.length, p⟩ ∧
      ((requestFrame P o p).drop 5).take p.length = p

/-- The decoder accepts nothing but serialized response frames of the expected size. -/
def Obligations.AcceptedBytesAreASerializedFrame : Prop :=
  ∀ (P : Params) (b : Bytes) (e : Half) (f : Frame), decodeResponse P b e = some f →
    b = serialize P Config.startRecv f.opcode f.dir f.payload ∧ f.len.toNat = f.payload.length ∧
      b.length = e.toNat ∧ b.length = P.size f.payload.length

/-- With the default checksum a change of one byte of an accepted frame, at any offset, is always caught; a single changed bit is a
case of it. -/
def Obligations.DefaultChecksumCatchesAnyByteChange : Prop :=
  ∀ (P : Params) (b : Bytes) (e : Half) (f : Frame) (j : Nat) (x : Byte), P.trailer = .crc16Xmodem →
    decodeResponse P b e = some f → j < b.length → b[j]? ≠ some x → decodeResponse P (b.set j x) e = none

/-- A rejected response only fails the attempt: whether its first byte is not `0xDC`, its length is not the expected size, or any other
test of the decoder fails, no result register, no tracker register (`REQ_ID` among them) and no other register
but the control position changes. -/
def Obligations.RejectedResponseLeavesNoTrace : Prop :=
  ∀ (s : State) (b : Bytes),
    (b.head? ≠ some 0xDC ∨ b.length ≠ s.seq.xRsize.toNat → decodeResponse s.params b s.seq.xRsize = none) ∧
    (decodeResponse s.params b s.seq.xRsize = none →
      exec (.decodeResponse b) s = .next { s with
        pos := .startSleep .backoff, seq := { s.seq with rstate := .backoff } })

/-- An accepted response goes to the exchange's caller. Its opcode and direction byte are the buffer's bytes 1 and 2, its `len` is the
number at offsets 3 and 4, most significant byte first, and its payload is the `len` bytes from offset 5, all of them and
nothing more (R154). It ends an ordinary command with `OK` and these four in the result registers (R180), with the
payload's views (R155, R156, decision D35); in a session its status byte (R203, decision D20), or its two-byte chunk id
(R212, decision D15), is the operand of the reply the tracker handles next, and no result register changes. -/
def Obligations.AcceptedResponseIsDelivered : Prop :=
  ∀ (s : State) (b : Bytes) (f : Frame), decodeResponse s.params b s.seq.xRsize = some f →
    (b[1]? = some f.opcode ∧ b[2]? = some f.dir ∧
      b[3]? = some (f.len.extractLsb' 8 8) ∧ b[4]? = some (f.len.extractLsb' 0 8) ∧
      f.payload = (b.drop 5).take f.len.toNat ∧ f.payload.length = f.len.toNat) ∧
    (resting s.fw.fwState = true →
      exec (.decodeResponse b) s = .next { s with
        busy := false
        pos := .idle
        seq := { s.seq with rstate := .idle }
        res :=
          { kind := .ok
            code := 0x00
            opcode := f.opcode
            dir := f.dir
            len := f.len
            payload := f.payload
            u := if 1 ≤ f.payload.length ∧ f.payload.length ≤ 8 then unsignedView f.payload else s.res.u
            s := if 1 ≤ f.payload.length ∧ f.payload.length ≤ 8 then signedView f.payload else s.res.s
            numValid := decide (1 ≤ f.payload.length ∧ f.payload.length ≤ 8) }
        env := { s.env with trace := s.env.trace ++ [.e .ok 0x00] } }) ∧
    (∀ x : Byte, s.fw.fwState = .erasing → (b.drop 5).take f.len.toNat = [x] →
      exec (.decodeResponse b) s = .next { s with
        pos := .op (.clearStorageReply f.opcode f.dir x), seq := { s.seq with rstate := .idle } }) ∧
    (∀ x y : Byte, s.fw.fwState = .streaming → (b.drop 5).take f.len.toNat = [x, y] →
      exec (.decodeResponse b) s = .next { s with
        pos := .op (.fwChunkReply f.opcode f.dir (x ++ y)), seq := { s.seq with rstate := .idle } })

/-- The unsigned view: defined for 1 to 8 bytes, where it is the exact big-endian value, below `2^(8 |p|)`; else `RES_U` keeps its value
and `RES_NUM_VALID` is 0. -/
def Obligations.UnsignedViewIsExact : Prop :=
  (∀ p : Bytes, p.length ≤ 8 → (unsignedView p).toNat = ube p ∧ ube p < 2 ^ (8 * p.length)) ∧
  (∀ (f : Frame) (r : Results),
    (1 ≤ f.payload.length → f.payload.length ≤ 8 →
      (frameResults f r).u.toNat = ube f.payload ∧ (frameResults f r).numValid = true) ∧
    (f.payload.length = 0 ∨ 8 < f.payload.length →
      (frameResults f r).u = r.u ∧ (frameResults f r).numValid = false))

/-- The signed view of 1 to 8 bytes is the exact two's-complement value, in the range of its width, and equals the unsigned view exactly
when the first bit is clear (decision D35). -/
def Obligations.SignedViewIsExact : Prop :=
  ∀ (b : Byte) (q : Bytes), q.length ≤ 7 →
    (signedView (b :: q)).toInt = sbe (b :: q) ∧
    -(2 : Int) ^ (8 * q.length + 7) ≤ sbe (b :: q) ∧ sbe (b :: q) < (2 : Int) ^ (8 * q.length + 7) ∧
    (sbe (b :: q) = ube (b :: q) ↔ b.msb = false) ∧
    (b.msb = true → sbe (b :: q) = (ube (b :: q) : Int) - 2 ^ (8 * q.length + 8))

/-- `be` and `ube` are inverse: `be(v, w)` has `w` bytes and the value `v mod 2^(8w)`, and every byte sequence is the encoding of its
value; `PACK` is `be` of the low bytes for widths 1 to 8 and raises otherwise (decision D6). -/
def Obligations.BigEndianPackingIsExact : Prop :=
  (∀ v w : Nat, (be v w).length = w ∧ ube (be v w) = v % 2 ^ (8 * w)) ∧
  (∀ s : Bytes, be (ube s) s.length = s ∧ ube s < 2 ^ (8 * s.length)) ∧
  (∀ (v : Word64) (w : Byte), pack v w =
    if 1 ≤ w.toNat ∧ w.toNat ≤ 8 then some (be v.toNat w.toNat) else none)

/-! ## The retry sequencer -/

/-- The send of an attempt: one `T_WRITE` of the frame in the transmit buffer, then the post-send delay whatever the answer; after the
delay the read when the send succeeded, and after a send that faulted no read but the failed attempt's backoff (decision
D8). -/
def Obligations.SendThenDelayThenRead : Prop :=
  ∀ s : State,
    (s.pos = .send → engineStep s = .next { s with
      pos := .startSleep (.wait (nextAck s))
      seq := { s.seq with rstate := .wait }
      env := { (dropAck s).env with trace := s.env.trace ++ [.w (toSend s) (nextAck s)] } }) ∧
    (s.pos = .sleeping (.wait .ok) → s.seq.timer = 0 → engineStep s = .next { s with
      pos := .recv, seq := { s.seq with rstate := .read } }) ∧
    (s.pos = .sleeping (.wait .fault) → s.seq.timer = 0 → engineStep s = .next { s with
      pos := .startSleep .backoff, seq := { s.seq with rstate := .backoff } })

/-- The read of an attempt: one `T_READ(X_RSIZE)`, its bytes in the receive buffer, at most `X_RSIZE` of them, none after a fault; the
decoder is next (decision D32). The one answer is used up, or one free answer drawn when none is queued (log entry 4),
and the expected size, the delay, the attempt, the timer and the transmit buffer stay. -/
def Obligations.ReadFillsTheReceiveBuffer : Prop :=
  ∀ s : State, s.pos = .recv →
    ∃ t, engineStep s = .next t ∧ t.pos = .check ∧ t.seq.rstate = .check ∧
      t.env.trace = s.env.trace ++ [.r s.seq.xRsize.toNat (nextRead s.seq.xRsize.toNat s)] ∧
      (received t).length ≤ s.seq.xRsize.toNat ∧
      (∀ b, nextRead s.seq.xRsize.toNat s = .bytes b → received t = b) ∧
      (nextRead s.seq.xRsize.toNat s = .fault → received t = []) ∧
      SameOutside s t ∧ t.res = s.res ∧ t.fw = s.fw ∧ t.busy = s.busy ∧ t.seq.attempt = s.seq.attempt ∧
      t.seq.txbuf = s.seq.txbuf ∧ t.seq.txlen = s.seq.txlen ∧ t.seq.timer = s.seq.timer ∧
      t.seq.xRsize = s.seq.xRsize ∧ t.seq.xTimeout = s.seq.xTimeout ∧
      t.env.readQ = s.env.readQ.tail ∧ t.env.ackQ = s.env.ackQ ∧
      t.env.tick = (if s.env.readQ = [] then s.env.tick + 1 else s.env.tick)

/-- A sleep of `ms` milliseconds is traced once and lasts exactly `ms` ticks, in which the timer counts down to 0 and nothing else changes
(decision D9). -/
def Obligations.SleepLastsExactlyItsTicks : Prop :=
  ∀ (s : State) (n : Nap) (k : Nat), Quiet s → s.pos = .startSleep n → k ≤ (napMs n s).toNat →
    runFor (1 + k) s = .next { s with
      pos := .sleeping n
      seq := { s.seq with timer := napMs n s - BitVec.ofNat 32 k }
      env := { s.env with trace := s.env.trace ++ [.s (napKind n) (napMs n s)] } }

/-- After the backoff of a failed attempt: with attempts left, the next attempt with `ATTEMPT + 1`; after the tenth, whose failure has a backoff too
(R177, decision D7), `UNAVAILABLE` for an ordinary command, `StorageClearFailed` in the erase and `ChunkNoResponse` in a
chunk exchange, never `UNAVAILABLE` in a session (R243). The codes are decision D11 (R241), what the abort writes is
decision D31 (R248). -/
def Obligations.ExhaustionGoesToTheCaller : Prop :=
  ∀ s : State, s.pos = .sleeping .backoff → s.seq.timer = 0 →
    (s.seq.attempt.toNat < 9 → engineStep s = .next { s with
      pos := .send, seq := { s.seq with attempt := s.seq.attempt + 1, rstate := .send } }) ∧
    (s.seq.attempt.toNat = 9 → resting s.fw.fwState = true → engineStep s = .next { s with
      busy := false
      pos := .idle
      seq := { s.seq with rstate := .idle }
      res := { s.res with kind := .unavailable, code := 0x00 }
      env := { s.env with trace := s.env.trace ++ [.e .unavailable 0x00] } }) ∧
    (∀ code : Byte, s.seq.attempt.toNat = 9 →
      (s.fw.fwState = .erasing ∧ code = 0x10 ∨ s.fw.fwState = .streaming ∧ code = 0x11) →
      engineStep s = .next { s with
        busy := false
        pos := .idle
        seq := { s.seq with rstate := .idle }
        res := { s.res with kind := .fatal, code := code }
        fw := { s.fw with fwState := .aborted, fwErr := code, finalChunk := false }
        env := { s.env with trace := s.env.trace ++ [.e .fatal code] } })

/-- The step-by-step retry sequencer does what the pseudocode of `EXECUTE` does in one go, from any attempt on, and then gives the outcome
to its caller: the same events, the same registers, the same answers used up. -/
def Obligations.SequencerRefinesTheExecuteLoop : Prop :=
  ∀ s : State, Quiet s → s.pos = .send → s.seq.attempt.toNat ≤ 9 →
    Reaches s (giveBack (executeLoop (10 - s.seq.attempt.toNat) s))

/-- The bounds and sleep totals of one exchange, for any pattern of transport answers: at most 10 sends, one delay of `X_TIMEOUT` after each
send, at most one read per send; `ATTEMPT + 1` attempts; an accepted frame comes after one backoff less than attempts,
exhaustion after exactly 10 attempts and 10 backoffs, `10 (timeout + 100)` ms in all (decisions D7, D8). -/
def Obligations.ExchangeIsBounded : Prop :=
  ∀ s : State, Quiet s → s.pos = .send → s.seq.attempt = 0 →
    ∃ (u : State) (out : Option Frame) (evs : List Event),
      Reaches s (giveBack (u, out)) ∧ u.env.trace = s.env.trace ++ evs ∧ SameOutside s u ∧ u.fw = s.fw ∧ u.res = s.res ∧
      1 ≤ countW evs ∧ countW evs ≤ 10 ∧ countR evs ≤ countW evs ∧ countW evs = u.seq.attempt.toNat + 1 ∧
      sleepTotal .wait evs = countW evs * s.seq.xTimeout.toNat ∧ sleepTotal .settle evs = 0 ∧
      (out ≠ none → sleepTotal .backoff evs = (countW evs - 1) * 100) ∧
      (out = none → countW evs = 10 ∧
        sleepTotal .wait evs + sleepTotal .backoff evs = 10 * (s.seq.xTimeout.toNat + 100))

/-- What a failed attempt read is invisible to the host: two machines that differ in the answer of one read only, both answers being
rejected by the decoder, show the host the same after the read and the decoding, and go on from the same place. -/
def Obligations.RejectedBytesAreInvisible : Prop :=
  ∀ (s : State) (a b : ReadAns) (q : List ReadAns), Quiet s → s.pos = .recv → s.env.readQ = a :: q →
    (∀ x, cutAns s.seq.xRsize.toNat a = .bytes x → decodeResponse s.params x s.seq.xRsize = none) →
    (∀ x, cutAns s.seq.xRsize.toNat b = .bytes x → decodeResponse s.params x s.seq.xRsize = none) →
    ∃ t t', runFor 2 s = .next t ∧ runFor 2 { s with env := { s.env with readQ := b :: q } } = .next t' ∧
      hostView t = hostView t' ∧ t.pos = t'.pos ∧ t.seq.timer = t'.seq.timer ∧ t.env.readQ = t'.env.readQ ∧
      t.env.ackQ = t'.env.ackQ ∧ hostView t = { hostView s with rstate := 5 }

/-! ## The firmware transfer tracker -/

/-- The clear-program-storage request makes an empty request frame next, and in `Erasing` the exchange it starts has the 8-bit response size and
`ERASE_TIMEOUT_MS` (decisions D20, D27). That the frame is made in a step of its own is the model's choice (log entry
17). -/
def Obligations.EraseRequestBeginsItsExchange : Prop :=
  ∀ (s : State) (c : Byte), ∃ t, exec (.clearStorageRequest c) s = .next t ∧
    t = { s with pos := .op (.ser 0xCD c 0x01 []) } ∧
    (s.fw.fwState = .erasing → engineStep t = .next { t with
      pos := .send
      seq := { s.seq with
        txbuf := serialize s.params 0xCD c 0x01 []
        txlen := BitVec.ofNat 17 (serialize s.params 0xCD c 0x01 []).length
        xRsize := BitVec.ofNat 16 (5 + 1 + s.params.trailerLen)
        xTimeout := s.regs.eraseTimeoutMs
        attempt := 0
        rstate := .send } })

/-- The clear-program-storage reply: a status other than `STATUS_OK` aborts with `StorageClearFailed`, nothing sent; success goes to the
boot request when `FW_BOOT = 1` and to `Streaming` otherwise (decision D20). -/
def Obligations.EraseReplyDecidesTheSession : Prop :=
  ∀ (s : State) (o d st : Byte),
    (st ≠ s.params.statusOk → exec (.clearStorageReply o d st) s = .next { s with
      busy := false
      pos := .idle
      seq := { s.seq with rstate := .idle }
      res := { s.res with kind := .fatal, code := 0x10 }
      fw := { s.fw with fwState := .aborted, fwErr := 0x10, finalChunk := false }
      env := { s.env with trace := s.env.trace ++ [.e .fatal 0x10] } }) ∧
    (st = s.params.statusOk → s.regs.fwBoot = true → exec (.clearStorageReply o d st) s = .next { s with
      pos := .op (.resetForBootRequest s.params.opcResetForBoot)
      fw := { s.fw with fwState := .bootRequested } }) ∧
    (st = s.params.statusOk → s.regs.fwBoot = false → exec (.clearStorageReply o d st) s = .next { s with
      pos := .countChunks, fw := { s.fw with fwState := .streaming } })

/-- The reset-for-boot request is one `T_WRITE` of an empty request, the answer ignored (decision D21). -/
def Obligations.BootRequestIsOneWrite : Prop :=
  ∀ (s : State) (c : Byte), exec (.resetForBootRequest c) s = .next { s with
    pos := .startSleep .settle
    env := { (dropAck s).env with
      trace := s.env.trace ++ [.w (serialize s.params 0xCD c 0x01 []) (nextAck s)] } }

/-- The settle delay (R205): whatever the answer of the reset-for-boot write, which is one `T_WRITE` and ignored (R204, decision D21), one sleep of
800 ms follows it and then `Streaming`; without a boot request there is none. That the sleep takes a step a tick, so
that all of it takes 803 steps, is the model's choice (log entry 11). -/
def Obligations.SettleDelayFollowsTheBootRequest : Prop :=
  (∀ (s : State) (c : Byte), Quiet s → s.pos = .op (.resetForBootRequest c) →
    runFor 803 s = .next { s with
      pos := .countChunks
      fw := { s.fw with fwState := .streaming }
      seq := { s.seq with timer := 0 }
      env := { (dropAck s).env with
        trace := s.env.trace ++ [.w (serialize s.params 0xCD c 0x01 []) (nextAck s), .s .settle 800] } }) ∧
  (∀ (s : State) (o d : Byte), s.regs.fwBoot = false →
    exec (.clearStorageReply o d s.params.statusOk) s = .next { s with
      pos := .countChunks, fw := { s.fw with fwState := .streaming } })

/-- Entry to streaming: an empty image aborts with `EmptyImage`, one of more than `0xFFFE` chunks with `ImageTooLarge`; else the count is
set and the first chunk is next (decision D22). -/
def Obligations.StreamingCountsTheChunks : Prop :=
  ∀ (s : State) (n : Nat), s.pos = .countChunks →
    n = chunkCountOf s.regs.imgLen.toNat s.params.chunkSize →
    (∀ code : Byte, (n = 0 ∧ code = 0x13 ∨ 0xFFFE < n ∧ code = 0x14) → engineStep s = .next { s with
      busy := false
      pos := .idle
      seq := { s.seq with rstate := .idle }
      res := { s.res with kind := .fatal, code := code }
      fw := { s.fw with fwState := .aborted, fwErr := code, finalChunk := false }
      env := { s.env with trace := s.env.trace ++ [.e .fatal code] } }) ∧
    (1 ≤ n → n ≤ 0xFFFE → engineStep s = .next { s with
      pos := .loadChunk, fw := { s.fw with chunkCount := BitVec.ofNat 16 n, chunkIndex := 1 } })

/-- The chunk count is the quotient rounded up: `L / C` when `C` divides `L`, with no trailing empty chunk, else one more; it is at most `L`,
its chunks cover the image, and one chunk fewer does not. -/
def Obligations.ChunkCountIsTheCeiling : Prop :=
  ∀ L C : Nat, 1 ≤ C →
    (L % C = 0 → chunkCountOf L C = L / C) ∧ (L % C ≠ 0 → chunkCountOf L C = L / C + 1) ∧
    chunkCountOf L C ≤ L ∧ L ≤ chunkCountOf L C * C ∧ (0 < L → (chunkCountOf L C - 1) * C < L) ∧
    (chunkCountOf L C = 0 ↔ L = 0)

/-- The chunks of an image, in order, are the image: every byte is sent in exactly one chunk, at its place, and no chunk is empty or longer
than `CHUNK_SIZE`. -/
def Obligations.ChunksPartitionTheImage : Prop :=
  ∀ (img : Memory) (L C : Nat), 1 ≤ C →
    ((List.range (chunkCountOf L C)).map (fun j => chunkData img L C (chunkCountOf L C) (j + 1))).flatten =
      Memory.readSeq img 0 L ∧
    ∀ k, 1 ≤ k → k ≤ chunkCountOf L C →
      1 ≤ (chunkData img L C (chunkCountOf L C) k).length ∧ (chunkData img L C (chunkCountOf L C) k).length ≤ C ∧
      chunkStart C k + (chunkData img L C (chunkCountOf L C) k).length ≤ L

/-- Loading a chunk in a session never fails: `FINAL` says whether it is the last, and its request is next with the session's opcode, count,
index and the chunk's bytes. -/
def Obligations.LoadingAChunkCompletes : Prop :=
  ∀ s : State, Invariant s → s.pos = .loadChunk →
    engineStep s = .next { s with
      pos := .op (.fwChunkRequest s.params.opcFwChunk s.fw.chunkCount s.fw.chunkIndex
        (chunkData s.img s.regs.imgLen.toNat s.params.chunkSize s.fw.chunkCount.toNat s.fw.chunkIndex.toNat))
      fw := { s.fw with finalChunk := decide (s.fw.chunkIndex = s.fw.chunkCount) } }

/-- The firmware chunk request makes a request frame next whose payload is the count and the id, two bytes each, most significant first, and the
data (decision D14); in `Streaming` the exchange it starts has the 16-bit response size and `CHUNK_TIMEOUT_MS` (decision
D27). That the frame is made in a step of its own is the model's choice (log entry 17). -/
def Obligations.ChunkRequestBeginsItsExchange : Prop :=
  ∀ (s : State) (c : Byte) (n k : Half) (data p : Bytes),
    p = [n.extractLsb' 8 8, n.extractLsb' 0 8, k.extractLsb' 8 8, k.extractLsb' 0 8] ++ data →
    ∃ t, exec (.fwChunkRequest c n k data) s = .next t ∧
      t = { s with pos := .op (.ser 0xCD c 0x01 p) } ∧
      (s.fw.fwState = .streaming → engineStep t = .next { t with
        pos := .send
        seq := { s.seq with
          txbuf := serialize s.params 0xCD c 0x01 p
          txlen := BitVec.ofNat 17 (serialize s.params 0xCD c 0x01 p).length
          xRsize := BitVec.ofNat 16 (5 + 2 + s.params.trailerLen)
          xTimeout := s.regs.chunkTimeoutMs
          attempt := 0
          rstate := .send } })

/-- A reply that requests the chunk just sent: `REQ_ID` is recorded, the index and the progress stay, and the chunk is sent again in a new
exchange with a fresh count of attempts. -/
def Obligations.SameChunkIsResent : Prop :=
  ∀ (s : State) (o d : Byte), s.fw.chunkIndex ≠ 0xFFFF →
    (exec (.fwChunkReply o d s.fw.chunkIndex) s = .next { s with
      pos := .loadChunk, fw := { s.fw with reqId := s.fw.chunkIndex } }) ∧
    (Invariant s → Quiet s → s.pos = .op (.fwChunkReply o d s.fw.chunkIndex) →
      ∃ t, runFor 4 s = .next t ∧ t.pos = .send ∧ t.seq.attempt = 0 ∧ t.env = s.env ∧
        toSend t = requestFrame s.params s.params.opcFwChunk
          (chunkPayload s.fw.chunkCount s.fw.chunkIndex (currentChunk s)) ∧
        t.fw.chunkIndex = s.fw.chunkIndex ∧ t.fw.lastProgress = s.fw.lastProgress ∧
        t.fw.progressValid = s.fw.progressValid)

/-- A reply that requests the next chunk: the chunk sent is acknowledged. A progress value that repeats the last one is not surfaced and the
next chunk follows at once; another is surfaced, traced, and holds the tracker (decisions D17 to D19). -/
def Obligations.NextChunkIsAcknowledged : Prop :=
  ∀ (s : State) (o d : Byte) (r : Half) (p : BitVec 7), r ≠ 0xFFFF → r.toNat = s.fw.chunkIndex.toNat + 1 →
    s.fw.chunkIndex.toNat < s.fw.chunkCount.toNat →
    p = BitVec.ofNat 7 (s.fw.chunkIndex.toNat * 100 / s.fw.chunkCount.toNat) →
    (p = s.fw.lastProgress → exec (.fwChunkReply o d r) s = .next { s with
      pos := .loadChunk, fw := { s.fw with reqId := r, chunkIndex := r } }) ∧
    (p ≠ s.fw.lastProgress → exec (.fwChunkReply o d r) s = .next { s with
      pos := .hold .advance
      fw := { s.fw with reqId := r, lastProgress := p, progress := p, progressValid := true }
      env := { s.env with trace := s.env.trace ++ [.p p] } })

/-- The sentinel ends streaming at any chunk: the chunk sent is acknowledged, then `Finalizing` and the MCU reset request; at once when the
progress value repeats, after the hold when it is surfaced (decision D17). -/
def Obligations.SentinelFinalizes : Prop :=
  ∀ (s : State) (o d : Byte) (p : BitVec 7),
    p = BitVec.ofNat 7 (s.fw.chunkIndex.toNat * 100 / s.fw.chunkCount.toNat) →
    (p = s.fw.lastProgress → exec (.fwChunkReply o d 0xFFFF) s = .next { s with
      pos := .op (.resetMcuRequest s.params.opcResetMcu)
      fw := { s.fw with reqId := 0xFFFF, fwState := .finalizing, finalChunk := false } }) ∧
    (p ≠ s.fw.lastProgress → exec (.fwChunkReply o d 0xFFFF) s = .next { s with
      pos := .hold .finalize
      fw := { s.fw with reqId := 0xFFFF, lastProgress := p, progress := p, progressValid := true }
      env := { s.env with trace := s.env.trace ++ [.p p] } })

/-- Every other requested id aborts with `UninterpretableRequest`: a chunk back, a chunk ahead, and the chunk after the last (decision
D17). -/
def Obligations.UninterpretableRequestAborts : Prop :=
  ∀ (s : State) (o d : Byte) (r : Half), r ≠ 0xFFFF → r ≠ s.fw.chunkIndex →
    (r.toNat ≠ s.fw.chunkIndex.toNat + 1 ∨ s.fw.chunkCount.toNat ≤ s.fw.chunkIndex.toNat) →
    exec (.fwChunkReply o d r) s = .next { s with
      busy := false
      pos := .idle
      seq := { s.seq with rstate := .idle }
      res := { s.res with kind := .fatal, code := 0x12 }
      fw := { s.fw with reqId := r, fwState := .aborted, fwErr := 0x12, finalChunk := false }
      env := { s.env with trace := s.env.trace ++ [.e .fatal 0x12] } }

/-- A hold is lifted by `PROGRESS_TAKE` and by nothing the engine does: while the host is silent the machine stays as it is, and once the
host takes the value the tracker goes on, to the next chunk or to `Finalizing` (decision D19). -/
def Obligations.HoldWaitsForTheHost : Prop :=
  ∀ (s : State) (a : AfterAck), s.pos = .hold a → s.busy = true → s.fw.progressValid = true → s.env.inputs = [] →
    (∀ k, s.cmd = none → runFor k s = .next s) ∧
    (s.cmd = some 6 → a = .advance → runFor 2 s = .next { s with
      cmd := none
      pos := .loadChunk
      fw := { s.fw with progressValid := false, chunkIndex := s.fw.chunkIndex + 1 } }) ∧
    (s.cmd = some 6 → a = .finalize → runFor 2 s = .next { s with
      cmd := none
      pos := .op (.resetMcuRequest s.params.opcResetMcu)
      fw := { s.fw with progressValid := false, fwState := .finalizing, finalChunk := false } })

/-- The MCU reset request is one `T_WRITE` of an empty request, its answer ignored (R221, decision D21); the next step is `Done` with
`OK`, no frame and no progress value, the tracker's other registers as they were. In `Done` the counts,
`REQ_ID = 0xFFFF` and `LAST_PROGRESS` stay through every step but an `FW_UPDATE` and a reset (R222). -/
def Obligations.McuResetThenDone : Prop :=
  (∀ (s : State) (c : Byte),
    ∃ t, exec (.resetMcuRequest c) s = .next t ∧
      t = { s with
        pos := .finish
        env := { (dropAck s).env with
          trace := s.env.trace ++ [.w (serialize s.params 0xCD c 0x01 []) (nextAck s)] } } ∧
      engineStep t = .next { t with
        busy := false
        pos := .idle
        fw := { s.fw with fwState := .done }
        res := { s.res with kind := .ok, code := 0x00 }
        env := { t.env with trace := t.env.trace ++ [.e .ok 0x00] } }) ∧
  (∀ s t : State, Invariant s → s.fw.fwState = .done → step s = .next t → s.cmd ≠ some 5 →
    (s.cmd = none → s.env.inputs.head? ≠ some .reset) →
    t.fw.chunkCount = s.fw.chunkCount ∧ t.fw.chunkIndex = s.fw.chunkIndex ∧ t.fw.reqId = 0xFFFF ∧
      s.fw.reqId = 0xFFFF ∧ t.fw.lastProgress = s.fw.lastProgress ∧ t.fw.fwState = .done)

/-- A device that re-requests the same chunk `N` times is sent it `N` times, for every `N`: there are `N` sends and each is of the current chunk's
frame; the session is still streaming the same chunk, the progress has not moved and no progress value was surfaced
(decision D23). -/
def Obligations.EndlessResendIsAdmitted : Prop :=
  ∀ (N : Nat) (s : State) (o d : Byte) (qa : List Ack) (qr : List ReadAns), Invariant s → Quiet s → s.pos = .loadChunk →
    s.env.ackQ = List.replicate N .ok ++ qa →
    s.env.readQ = List.replicate N
      (.bytes (serialize s.params Config.startRecv o d (be s.fw.chunkIndex.toNat 2))) ++ qr →
    ∃ (t : State) (evs : List Event), Reaches s t ∧ t.pos = .loadChunk ∧ t.env.ackQ = qa ∧ t.env.readQ = qr ∧
      t.env.trace = s.env.trace ++ evs ∧ countW evs = N ∧ (∀ v, Event.p v ∉ evs) ∧
      (∀ (b : Bytes) (r : Ack), Event.w b r ∈ evs →
        b = requestFrame s.params s.params.opcFwChunk
          (chunkPayload s.fw.chunkCount s.fw.chunkIndex (currentChunk s))) ∧
      t.fw.chunkIndex = s.fw.chunkIndex ∧ t.fw.lastProgress = s.fw.lastProgress ∧ t.fw.fwState = s.fw.fwState

/-! ## The whole machine -/

/-- After reset the engine is idle, no result, no session, every register at the value the spec's table of reset values gives it (decision
D25). -/
def Obligations.ResetValuesAreTheSpecs : Prop :=
  State.reset.busy = false ∧ State.reset.cmd = none ∧
  State.reset.seq.rstate = .idle ∧ State.reset.seq.attempt = 0 ∧ State.reset.seq.xRsize = 0 ∧
  State.reset.seq.xTimeout = 0 ∧ State.reset.seq.timer = 0 ∧ State.reset.seq.txlen = 0 ∧ State.reset.seq.rlen = 0 ∧
  State.reset.regs.dOpcode = 0 ∧ State.reset.regs.dDir = 0 ∧ State.reset.regs.dPlen = 0 ∧ State.reset.regs.dRsize = 0 ∧
  State.reset.regs.timeoutMs = 0 ∧ State.reset.regs.eraseTimeoutMs = 0 ∧ State.reset.regs.chunkTimeoutMs = 0 ∧
  State.reset.regs.value = 0 ∧ State.reset.regs.vwidth = 0 ∧ State.reset.regs.plen = 0 ∧
  State.reset.regs.busAddr = 0 ∧ State.reset.regs.imgLen = 0 ∧ State.reset.regs.fwBoot = false ∧
  State.reset.res.kind = .none ∧ State.reset.res.code = 0 ∧ State.reset.res.opcode = 0 ∧ State.reset.res.dir = 0 ∧
  State.reset.res.len = 0 ∧ State.reset.res.payload = [] ∧ State.reset.res.u = 0 ∧ State.reset.res.s = 0 ∧
  State.reset.res.numValid = false ∧
  State.reset.fw.fwState = .idle ∧ State.reset.fw.fwErr = 0 ∧ State.reset.fw.chunkCount = 0 ∧
  State.reset.fw.chunkIndex = 0 ∧ State.reset.fw.reqId = 0 ∧ State.reset.fw.lastProgress = 0 ∧
  State.reset.fw.progress = 0 ∧ State.reset.fw.progressValid = false ∧ State.reset.fw.finalChunk = false

/-- A reset at any moment ends the operation with no result and no bus access: every register as after reset (decision D25). `PBUF`, `TXBUF` and
`RBUF` are unspecified then (R48, R270): that they hold nothing is the model's choice (log entries 9, 10), and that what
is outside the engine stays as before is its reading (log entry 21). -/
def Obligations.ResetEndsTheOperation : Prop :=
  ∀ (s : State) (q : List HostMove), s.cmd = none → s.env.inputs = .reset :: q →
    step s = .next { s with
      env := { s.env with inputs := q }
      regs := State.reset.regs
      busy := false
      pos := .idle
      seq := State.reset.seq
      res := State.reset.res
      fw := State.reset.fw }

/-- The invariant holds at reset. The parameter values there are the model's choice of instance (log entry 1). -/
def Obligations.InvariantHoldsAtReset : Prop := Invariant State.reset

/-- Every step keeps the invariant: parameters, memories in canonical form, `BUSY`, `RSTATE`, `ATTEMPT`, the timer, the agreement of place and
`FW_STATE`, the frame in the transmit buffer, the expected size and the delay of an exchange, the chunk counters, the
progress registers, `FINAL` and `FW_ERR`. -/
def Obligations.StepKeepsTheInvariant : Prop :=
  ∀ s t : State, Invariant s → step s = .next t → Invariant t

/-- A machine in the invariant never stops of its own: no step is refused, the image is never read outside its length, and the only fault is a
host write to an address that does not exist (that this write faults is the model's choice, log entry 19). -/
def Obligations.EngineNeverStops : Prop :=
  ∀ s : State, Invariant s → (∃ t, step s = .next t) ∨
    (step s = .fault .hostAddress ∧ s.busy = false ∧ s.cmd = none ∧
      ∃ (w : RegWrite) (q : List HostMove), s.env.inputs = .write w :: q ∧ writeInRange s.params w = false)

/-- No instruction writes the parameters, the image, an operand register, the command strobe or the host's moves; every byte of memory reads
as before. -/
def Obligations.InstructionsLeaveTheOutsideAlone : Prop :=
  ∀ (i : Instr) (s t : State), exec i s = .next t → SameOutside s t ∧ SameMemory s t

/-- The firmware state moves only along the transitions of the table, unless the host resets the engine. -/
def Obligations.FwStateFollowsTheTable : Prop :=
  ∀ s t : State, Invariant s → step s = .next t → (s.cmd = none → s.env.inputs.head? ≠ some .reset) →
    t.fw.fwState = s.fw.fwState ∨ fwTransition s.fw.fwState t.fw.fwState = true

/-- Within a session the chunk index never decreases and grows by one at most, and only by a reply or the end of a hold; the requested id changes
by an accepted reply only. -/
def Obligations.ChunkIndexOnlyAdvancesByOne : Prop :=
  ∀ s t : State, Invariant s → step s = .next t → s.fw.fwState = .streaming → t.fw.fwState = .streaming →
    s.pos ≠ .countChunks →
    (t.fw.chunkIndex = s.fw.chunkIndex ∨
      t.fw.chunkIndex.toNat = s.fw.chunkIndex.toNat + 1 ∧
        (s.pos = .hold .advance ∨ ∃ o d r, s.pos = .op (.fwChunkReply o d r) ∧ r = t.fw.chunkIndex)) ∧
    t.fw.chunkCount = s.fw.chunkCount ∧
    (t.fw.reqId ≠ s.fw.reqId → ∃ o d r, s.pos = .op (.fwChunkReply o d r) ∧ r = t.fw.reqId)

/-- A surfaced progress value is above the last one, at most 100, and 100 only for the last chunk. -/
def Obligations.ProgressStrictlyIncreases : Prop :=
  ∀ (s t : State) (v : BitVec 7), Invariant s → step s = .next t → t.env.trace = s.env.trace ++ [.p v] →
    s.fw.lastProgress.toNat < v.toNat ∧ v.toNat ≤ 100 ∧ t.fw.lastProgress = v ∧ t.fw.progress = v ∧
      t.fw.progressValid = true ∧ (v.toNat = 100 ↔ s.fw.chunkIndex = s.fw.chunkCount) ∧
      v.toNat = s.fw.chunkIndex.toNat * 100 / s.fw.chunkCount.toNat

/-- Start markers: every frame the engine sends starts with `0xCD` (and carries the request direction), and no received buffer that starts with
anything but `0xDC` is accepted. -/
def Obligations.StartMarkersSeparateTheDirections : Prop :=
  (∀ (s t : State) (b : Bytes) (r : Ack), Invariant s → step s = .next t → t.env.trace = s.env.trace ++ [.w b r] →
    b.head? = some 0xCD ∧ b[2]? = some 0x01) ∧
  (∀ (P : Params) (b : Bytes) (e : Half), b.head? ≠ some 0xDC → decodeResponse P b e = none)

/-- Every chunk frame sent carries the session's count, the current index and that chunk's bytes. -/
def Obligations.ChunkFramesCarryTheCurrentChunk : Prop :=
  ∀ (s t : State) (b : Bytes) (r : Ack), Invariant s → step s = .next t → s.fw.fwState = .streaming →
    t.env.trace = s.env.trace ++ [.w b r] →
    b = requestFrame s.params s.params.opcFwChunk
      (chunkPayload s.fw.chunkCount s.fw.chunkIndex
        (chunkData s.img s.regs.imgLen.toNat s.params.chunkSize (imageChunks s) s.fw.chunkIndex.toNat))
end

