-- ==== Sys2Proof/Laws/Memory.lean ====
section
/-! SUPPORT. The byte-addressed memories: every write keeps the canonical form, a read after a write to the same address gives the byte
written, and a write leaves every other address alone. -/

namespace Sys2Proof.Machine

/-- A lower bound on the addresses may be lowered. -/
theorem Memory.wfFrom_mono {lo lo' : Nat} (h : lo' ≤ lo) : ∀ {m : Memory}, Memory.wfFrom lo m = true →
    Memory.wfFrom lo' m = true
  | [], _ => rfl
  | (k, b) :: m, hm => by
    simp only [Memory.wfFrom, Bool.and_eq_true, decide_eq_true_eq] at hm ⊢
    exact ⟨by omega, hm.2⟩

/-- Below the addresses of a canonical memory every byte is the unlisted one. -/
theorem Memory.read_below {lo a : Nat} (h : a < lo) : ∀ {m : Memory}, Memory.wfFrom lo m = true →
    Memory.read m a = Memory.unlisted
  | [], _ => rfl
  | (k, b) :: m, hm => by
    simp only [Memory.wfFrom, Bool.and_eq_true, decide_eq_true_eq] at hm
    simp [Memory.read, show a ≠ k by omega, show a < k by omega]

theorem Memory.cons_wf {lo a : Nat} {b : Byte} {m : Memory} (h : lo ≤ a) (hm : Memory.wfFrom (a + 1) m = true) :
    Memory.wfFrom lo (Memory.cons a b m) = true := by
  unfold Memory.cons
  split
  · exact Memory.wfFrom_mono (by omega) hm
  · simp [Memory.wfFrom, *]

/-- A write keeps the canonical form. -/
theorem Memory.write_wfFrom {lo a : Nat} {b : Byte} (h : lo ≤ a) : ∀ {m : Memory}, Memory.wfFrom lo m = true →
    Memory.wfFrom lo (Memory.write m a b) = true
  | [], _ => Memory.cons_wf h rfl
  | (k, c) :: m, hm => by
    have hm' := hm
    simp only [Memory.wfFrom, Bool.and_eq_true, decide_eq_true_eq] at hm
    obtain ⟨hk, hc, hrest⟩ := hm
    unfold Memory.write
    split
    · exact Memory.cons_wf h (by simp [Memory.wfFrom, hrest, hc]; omega)
    · split
      · subst a; exact Memory.cons_wf h hrest
      · have := Memory.write_wfFrom (lo := k + 1) (a := a) (b := b) (by omega) hrest
        simp [Memory.wfFrom, this, hk, hc]

theorem Memory.write_wf {m : Memory} {a : Nat} {b : Byte} (h : Memory.wf m = true) :
    Memory.wf (Memory.write m a b) = true := Memory.write_wfFrom (Nat.zero_le a) h

theorem Memory.writeSeq_wf {a : Nat} : ∀ {b : Bytes} {m : Memory}, Memory.wf m = true →
    Memory.wf (Memory.writeSeq m a b) = true := by
  intro b
  induction b generalizing a with
  | nil => exact fun h => h
  | cons x b ih => exact fun h => ih (Memory.write_wf h)

theorem Memory.read_cons_same {a : Nat} {b : Byte} {m : Memory} (hm : Memory.wfFrom (a + 1) m = true) :
    Memory.read (Memory.cons a b m) a = b := by
  unfold Memory.cons
  split
  · rw [Memory.read_below (Nat.lt_succ_self a) hm, ‹b = _›]
  · simp [Memory.read]

/-- A read after a write to the same address. -/
theorem Memory.read_write_same {a : Nat} {b : Byte} : ∀ {lo : Nat} {m : Memory}, Memory.wfFrom lo m = true →
    Memory.read (Memory.write m a b) a = b
  | _, [], _ => Memory.read_cons_same rfl
  | lo, (k, c) :: m, hm => by
    simp only [Memory.wfFrom, Bool.and_eq_true, decide_eq_true_eq] at hm
    obtain ⟨hk, hc, hrest⟩ := hm
    unfold Memory.write
    split
    · exact Memory.read_cons_same (by simp [Memory.wfFrom, hrest, hc]; omega)
    · split
      · subst a; exact Memory.read_cons_same hrest
      · simp [Memory.read, Memory.read_write_same hrest, *]

theorem Memory.read_cons_other {a x : Nat} {b : Byte} {m : Memory} (hm : Memory.wfFrom (a + 1) m = true) (hx : x ≠ a) :
    Memory.read (Memory.cons a b m) x = Memory.read m x := by
  unfold Memory.cons
  split
  · rfl
  · rcases Nat.lt_or_gt_of_ne hx with h | h
    · simp [Memory.read, hx, h, Memory.read_below (show x < a + 1 by omega) hm]
    · simp [Memory.read, hx, show ¬ x < a by omega]

/-- A write leaves every other address alone. -/
theorem Memory.read_write_other {a x : Nat} {b : Byte} (hx : x ≠ a) : ∀ {lo : Nat} {m : Memory},
    Memory.wfFrom lo m = true → Memory.read (Memory.write m a b) x = Memory.read m x
  | _, [], _ => Memory.read_cons_other rfl hx
  | lo, (k, c) :: m, hm => by
    simp only [Memory.wfFrom, Bool.and_eq_true, decide_eq_true_eq] at hm
    obtain ⟨hk, hc, hrest⟩ := hm
    unfold Memory.write
    split
    · exact Memory.read_cons_other (by simp [Memory.wfFrom, hrest, hc]; omega) hx
    · split
      · subst a
        rw [Memory.read_cons_other hrest hx]
        rcases Nat.lt_or_gt_of_ne hx with h | h
        · simp [Memory.read, hx, h, Memory.read_below (show x < k + 1 by omega) hrest]
        · simp [Memory.read, hx, show ¬ x < k by omega]
      · simp only [Memory.read, Memory.read_write_other hx hrest]

@[simp] theorem Memory.readSeq_length (m : Memory) (a n : Nat) : (Memory.readSeq m a n).length = n := by
  induction n generalizing a with
  | zero => rfl
  | succ n ih => simp [Memory.readSeq, ih]

/-- The memories of the reset state have the canonical form. -/
theorem Memory.reset_wf : Memory.wf State.reset.img = true ∧ Memory.wf State.reset.regs.pbuf = true := ⟨rfl, rfl⟩

end Sys2Proof.Machine
end

