-- ==== Sys2Proof/Laws/State.lean ====
section
/-! SUPPORT. What each update of the state does to each field: one lemma per field per update, so that no proof unfolds a record
update. -/

namespace Sys2Proof.Machine

variable (s : State)

/-! ## `emit` -/

@[simp] theorem emit_params (e : Event) : (emit e s).params = s.params := rfl
@[simp] theorem emit_img (e : Event) : (emit e s).img = s.img := rfl
@[simp] theorem emit_env (e : Event) : (emit e s).env = { s.env with trace := s.env.trace ++ [e] } := rfl
@[simp] theorem emit_cmd (e : Event) : (emit e s).cmd = s.cmd := rfl
@[simp] theorem emit_regs (e : Event) : (emit e s).regs = s.regs := rfl
@[simp] theorem emit_busy (e : Event) : (emit e s).busy = s.busy := rfl
@[simp] theorem emit_pos (e : Event) : (emit e s).pos = s.pos := rfl
@[simp] theorem emit_seq (e : Event) : (emit e s).seq = s.seq := rfl
@[simp] theorem emit_res (e : Event) : (emit e s).res = s.res := rfl
@[simp] theorem emit_fw (e : Event) : (emit e s).fw = s.fw := rfl

/-! ## `goto` -/

@[simp] theorem goto_params (p : Pos) : (goto p s).params = s.params := rfl
@[simp] theorem goto_img (p : Pos) : (goto p s).img = s.img := rfl
@[simp] theorem goto_env (p : Pos) : (goto p s).env = s.env := rfl
@[simp] theorem goto_cmd (p : Pos) : (goto p s).cmd = s.cmd := rfl
@[simp] theorem goto_regs (p : Pos) : (goto p s).regs = s.regs := rfl
@[simp] theorem goto_busy (p : Pos) : (goto p s).busy = s.busy := rfl
@[simp] theorem goto_pos (p : Pos) : (goto p s).pos = p := rfl
@[simp] theorem goto_seq (p : Pos) : (goto p s).seq = s.seq := rfl
@[simp] theorem goto_res (p : Pos) : (goto p s).res = s.res := rfl
@[simp] theorem goto_fw (p : Pos) : (goto p s).fw = s.fw := rfl

/-! ## `setRState` -/

@[simp] theorem setRState_params (r : RState) : (setRState r s).params = s.params := rfl
@[simp] theorem setRState_img (r : RState) : (setRState r s).img = s.img := rfl
@[simp] theorem setRState_env (r : RState) : (setRState r s).env = s.env := rfl
@[simp] theorem setRState_cmd (r : RState) : (setRState r s).cmd = s.cmd := rfl
@[simp] theorem setRState_regs (r : RState) : (setRState r s).regs = s.regs := rfl
@[simp] theorem setRState_busy (r : RState) : (setRState r s).busy = s.busy := rfl
@[simp] theorem setRState_pos (r : RState) : (setRState r s).pos = s.pos := rfl
@[simp] theorem setRState_seq (r : RState) : (setRState r s).seq = { s.seq with rstate := r } := rfl
@[simp] theorem setRState_res (r : RState) : (setRState r s).res = s.res := rfl
@[simp] theorem setRState_fw (r : RState) : (setRState r s).fw = s.fw := rfl

/-! ## `setFwState` -/

@[simp] theorem setFwState_params (f : FwState) : (setFwState f s).params = s.params := rfl
@[simp] theorem setFwState_img (f : FwState) : (setFwState f s).img = s.img := rfl
@[simp] theorem setFwState_env (f : FwState) : (setFwState f s).env = s.env := rfl
@[simp] theorem setFwState_cmd (f : FwState) : (setFwState f s).cmd = s.cmd := rfl
@[simp] theorem setFwState_regs (f : FwState) : (setFwState f s).regs = s.regs := rfl
@[simp] theorem setFwState_busy (f : FwState) : (setFwState f s).busy = s.busy := rfl
@[simp] theorem setFwState_pos (f : FwState) : (setFwState f s).pos = s.pos := rfl
@[simp] theorem setFwState_seq (f : FwState) : (setFwState f s).seq = s.seq := rfl
@[simp] theorem setFwState_res (f : FwState) : (setFwState f s).res = s.res := rfl
@[simp] theorem setFwState_fw (f : FwState) : (setFwState f s).fw = { s.fw with fwState := f } := rfl

/-! ## `setReqId` -/

@[simp] theorem setReqId_params (r : Half) : (setReqId r s).params = s.params := rfl
@[simp] theorem setReqId_img (r : Half) : (setReqId r s).img = s.img := rfl
@[simp] theorem setReqId_env (r : Half) : (setReqId r s).env = s.env := rfl
@[simp] theorem setReqId_cmd (r : Half) : (setReqId r s).cmd = s.cmd := rfl
@[simp] theorem setReqId_regs (r : Half) : (setReqId r s).regs = s.regs := rfl
@[simp] theorem setReqId_busy (r : Half) : (setReqId r s).busy = s.busy := rfl
@[simp] theorem setReqId_pos (r : Half) : (setReqId r s).pos = s.pos := rfl
@[simp] theorem setReqId_seq (r : Half) : (setReqId r s).seq = s.seq := rfl
@[simp] theorem setReqId_res (r : Half) : (setReqId r s).res = s.res := rfl
@[simp] theorem setReqId_fw (r : Half) : (setReqId r s).fw = { s.fw with reqId := r } := rfl

/-! ## `tickTimer` -/

@[simp] theorem tickTimer_params : (tickTimer s).params = s.params := rfl
@[simp] theorem tickTimer_img : (tickTimer s).img = s.img := rfl
@[simp] theorem tickTimer_env : (tickTimer s).env = s.env := rfl
@[simp] theorem tickTimer_cmd : (tickTimer s).cmd = s.cmd := rfl
@[simp] theorem tickTimer_regs : (tickTimer s).regs = s.regs := rfl
@[simp] theorem tickTimer_busy : (tickTimer s).busy = s.busy := rfl
@[simp] theorem tickTimer_pos : (tickTimer s).pos = s.pos := rfl
@[simp] theorem tickTimer_seq : (tickTimer s).seq = { s.seq with timer := s.seq.timer - 1 } := rfl
@[simp] theorem tickTimer_res : (tickTimer s).res = s.res := rfl
@[simp] theorem tickTimer_fw : (tickTimer s).fw = s.fw := rfl

/-! ## `issue` -/

@[simp] theorem issue_params : (issue s).params = s.params := rfl
@[simp] theorem issue_img : (issue s).img = s.img := rfl
@[simp] theorem issue_env : (issue s).env = s.env := rfl
@[simp] theorem issue_cmd : (issue s).cmd = s.cmd := rfl
@[simp] theorem issue_regs : (issue s).regs = s.regs := rfl
@[simp] theorem issue_busy : (issue s).busy = true := rfl
@[simp] theorem issue_pos : (issue s).pos = s.pos := rfl
@[simp] theorem issue_seq : (issue s).seq = s.seq := rfl
@[simp] theorem issue_res : (issue s).res = { s.res with kind := .none, code := 0x00 } := rfl
@[simp] theorem issue_fw : (issue s).fw = s.fw := rfl

/-! ## `newSession` -/

@[simp] theorem newSession_params : (newSession s).params = s.params := rfl
@[simp] theorem newSession_img : (newSession s).img = s.img := rfl
@[simp] theorem newSession_env : (newSession s).env = s.env := rfl
@[simp] theorem newSession_cmd : (newSession s).cmd = s.cmd := rfl
@[simp] theorem newSession_regs : (newSession s).regs = s.regs := rfl
@[simp] theorem newSession_busy : (newSession s).busy = s.busy := rfl
@[simp] theorem newSession_pos : (newSession s).pos = s.pos := rfl
@[simp] theorem newSession_seq : (newSession s).seq = s.seq := rfl
@[simp] theorem newSession_res : (newSession s).res = s.res := rfl
@[simp] theorem newSession_fw : (newSession s).fw = { Tracker.reset with fwState := .erasing } := rfl

/-! ## `takeProgress` -/

@[simp] theorem takeProgress_params : (takeProgress s).params = s.params := rfl
@[simp] theorem takeProgress_img : (takeProgress s).img = s.img := rfl
@[simp] theorem takeProgress_env : (takeProgress s).env = s.env := rfl
@[simp] theorem takeProgress_cmd : (takeProgress s).cmd = s.cmd := rfl
@[simp] theorem takeProgress_regs : (takeProgress s).regs = s.regs := rfl
@[simp] theorem takeProgress_busy : (takeProgress s).busy = s.busy := rfl
@[simp] theorem takeProgress_pos : (takeProgress s).pos = s.pos := rfl
@[simp] theorem takeProgress_seq : (takeProgress s).seq = s.seq := rfl
@[simp] theorem takeProgress_res : (takeProgress s).res = s.res := rfl
@[simp] theorem takeProgress_fw : (takeProgress s).fw = { s.fw with progressValid := false } := rfl

/-! ## `dropCmd` -/

@[simp] theorem dropCmd_params : (dropCmd s).params = s.params := rfl
@[simp] theorem dropCmd_img : (dropCmd s).img = s.img := rfl
@[simp] theorem dropCmd_env : (dropCmd s).env = s.env := rfl
@[simp] theorem dropCmd_cmd : (dropCmd s).cmd = none := rfl
@[simp] theorem dropCmd_regs : (dropCmd s).regs = s.regs := rfl
@[simp] theorem dropCmd_busy : (dropCmd s).busy = s.busy := rfl
@[simp] theorem dropCmd_pos : (dropCmd s).pos = s.pos := rfl
@[simp] theorem dropCmd_seq : (dropCmd s).seq = s.seq := rfl
@[simp] theorem dropCmd_res : (dropCmd s).res = s.res := rfl
@[simp] theorem dropCmd_fw : (dropCmd s).fw = s.fw := rfl

/-! ## `dropInput` -/

@[simp] theorem dropInput_params : (dropInput s).params = s.params := rfl
@[simp] theorem dropInput_img : (dropInput s).img = s.img := rfl
@[simp] theorem dropInput_env : (dropInput s).env = { s.env with inputs := s.env.inputs.tail } := rfl
@[simp] theorem dropInput_cmd : (dropInput s).cmd = s.cmd := rfl
@[simp] theorem dropInput_regs : (dropInput s).regs = s.regs := rfl
@[simp] theorem dropInput_busy : (dropInput s).busy = s.busy := rfl
@[simp] theorem dropInput_pos : (dropInput s).pos = s.pos := rfl
@[simp] theorem dropInput_seq : (dropInput s).seq = s.seq := rfl
@[simp] theorem dropInput_res : (dropInput s).res = s.res := rfl
@[simp] theorem dropInput_fw : (dropInput s).fw = s.fw := rfl

/-! ## `endWith` -/

@[simp] theorem endWith_params (k : ResKind) (c : Byte) : (endWith k c s).params = s.params := rfl
@[simp] theorem endWith_img (k : ResKind) (c : Byte) : (endWith k c s).img = s.img := rfl
@[simp] theorem endWith_env (k : ResKind) (c : Byte) : (endWith k c s).env = { s.env with trace := s.env.trace ++ [.e k c] } := rfl
@[simp] theorem endWith_cmd (k : ResKind) (c : Byte) : (endWith k c s).cmd = s.cmd := rfl
@[simp] theorem endWith_regs (k : ResKind) (c : Byte) : (endWith k c s).regs = s.regs := rfl
@[simp] theorem endWith_busy (k : ResKind) (c : Byte) : (endWith k c s).busy = false := rfl
@[simp] theorem endWith_pos (k : ResKind) (c : Byte) : (endWith k c s).pos = .idle := rfl
@[simp] theorem endWith_seq (k : ResKind) (c : Byte) : (endWith k c s).seq = s.seq := rfl
@[simp] theorem endWith_res (k : ResKind) (c : Byte) : (endWith k c s).res = { s.res with kind := k, code := c } := rfl
@[simp] theorem endWith_fw (k : ResKind) (c : Byte) : (endWith k c s).fw = s.fw := rfl

/-! ## `beginSleep` -/

@[simp] theorem beginSleep_params (n : Nap) : (beginSleep n s).params = s.params := rfl
@[simp] theorem beginSleep_img (n : Nap) : (beginSleep n s).img = s.img := rfl
@[simp] theorem beginSleep_env (n : Nap) : (beginSleep n s).env = { s.env with trace := s.env.trace ++ [.s (napKind n) (napMs n s)] } := rfl
@[simp] theorem beginSleep_cmd (n : Nap) : (beginSleep n s).cmd = s.cmd := rfl
@[simp] theorem beginSleep_regs (n : Nap) : (beginSleep n s).regs = s.regs := rfl
@[simp] theorem beginSleep_busy (n : Nap) : (beginSleep n s).busy = s.busy := rfl
@[simp] theorem beginSleep_pos (n : Nap) : (beginSleep n s).pos = s.pos := rfl
@[simp] theorem beginSleep_seq (n : Nap) : (beginSleep n s).seq = { s.seq with timer := napMs n s } := rfl
@[simp] theorem beginSleep_res (n : Nap) : (beginSleep n s).res = s.res := rfl
@[simp] theorem beginSleep_fw (n : Nap) : (beginSleep n s).fw = s.fw := rfl

/-! ## `loadFrame` -/

@[simp] theorem loadFrame_params (f : Bytes) : (loadFrame f s).params = s.params := rfl
@[simp] theorem loadFrame_img (f : Bytes) : (loadFrame f s).img = s.img := rfl
@[simp] theorem loadFrame_env (f : Bytes) : (loadFrame f s).env = s.env := rfl
@[simp] theorem loadFrame_cmd (f : Bytes) : (loadFrame f s).cmd = s.cmd := rfl
@[simp] theorem loadFrame_regs (f : Bytes) : (loadFrame f s).regs = s.regs := rfl
@[simp] theorem loadFrame_busy (f : Bytes) : (loadFrame f s).busy = s.busy := rfl
@[simp] theorem loadFrame_pos (f : Bytes) : (loadFrame f s).pos = .send := rfl
@[simp] theorem loadFrame_seq (f : Bytes) : (loadFrame f s).seq = { s.seq with
    txbuf := f, txlen := BitVec.ofNat 17 f.length, xRsize := exchangeSize s, xTimeout := exchangeTimeout s, attempt := 0
    rstate := .send } := rfl
@[simp] theorem loadFrame_res (f : Bytes) : (loadFrame f s).res = s.res := rfl
@[simp] theorem loadFrame_fw (f : Bytes) : (loadFrame f s).fw = s.fw := rfl

/-! ## `beginExchange` -/

@[simp] theorem beginExchange_params (o : Byte) (p : Bytes) : (beginExchange o p s).params = s.params := rfl
@[simp] theorem beginExchange_img (o : Byte) (p : Bytes) : (beginExchange o p s).img = s.img := rfl
@[simp] theorem beginExchange_env (o : Byte) (p : Bytes) : (beginExchange o p s).env = s.env := rfl
@[simp] theorem beginExchange_cmd (o : Byte) (p : Bytes) : (beginExchange o p s).cmd = s.cmd := rfl
@[simp] theorem beginExchange_regs (o : Byte) (p : Bytes) : (beginExchange o p s).regs = s.regs := rfl
@[simp] theorem beginExchange_busy (o : Byte) (p : Bytes) : (beginExchange o p s).busy = s.busy := rfl
@[simp] theorem beginExchange_pos (o : Byte) (p : Bytes) : (beginExchange o p s).pos = .op (.ser Config.startSent o Config.dirReq p) := rfl
@[simp] theorem beginExchange_seq (o : Byte) (p : Bytes) : (beginExchange o p s).seq = s.seq := rfl
@[simp] theorem beginExchange_res (o : Byte) (p : Bytes) : (beginExchange o p s).res = s.res := rfl
@[simp] theorem beginExchange_fw (o : Byte) (p : Bytes) : (beginExchange o p s).fw = s.fw := rfl

/-! ## `attemptFailed` -/

@[simp] theorem attemptFailed_params : (attemptFailed s).params = s.params := rfl
@[simp] theorem attemptFailed_img : (attemptFailed s).img = s.img := rfl
@[simp] theorem attemptFailed_env : (attemptFailed s).env = s.env := rfl
@[simp] theorem attemptFailed_cmd : (attemptFailed s).cmd = s.cmd := rfl
@[simp] theorem attemptFailed_regs : (attemptFailed s).regs = s.regs := rfl
@[simp] theorem attemptFailed_busy : (attemptFailed s).busy = s.busy := rfl
@[simp] theorem attemptFailed_pos : (attemptFailed s).pos = .startSleep .backoff := rfl
@[simp] theorem attemptFailed_seq : (attemptFailed s).seq = { s.seq with rstate := .backoff } := rfl
@[simp] theorem attemptFailed_res : (attemptFailed s).res = s.res := rfl
@[simp] theorem attemptFailed_fw : (attemptFailed s).fw = s.fw := rfl

/-! ## `abort` -/

@[simp] theorem abort_params (c : Cause) : (abort c s).params = s.params := rfl
@[simp] theorem abort_img (c : Cause) : (abort c s).img = s.img := rfl
@[simp] theorem abort_env (c : Cause) : (abort c s).env = { s.env with trace := s.env.trace ++ [.e .fatal (causeCode c)] } := rfl
@[simp] theorem abort_cmd (c : Cause) : (abort c s).cmd = s.cmd := rfl
@[simp] theorem abort_regs (c : Cause) : (abort c s).regs = s.regs := rfl
@[simp] theorem abort_busy (c : Cause) : (abort c s).busy = false := rfl
@[simp] theorem abort_pos (c : Cause) : (abort c s).pos = .idle := rfl
@[simp] theorem abort_seq (c : Cause) : (abort c s).seq = { s.seq with rstate := .idle } := rfl
@[simp] theorem abort_res (c : Cause) : (abort c s).res = { s.res with kind := .fatal, code := causeCode c } := rfl
@[simp] theorem abort_fw (c : Cause) : (abort c s).fw = { s.fw with fwState := .aborted, fwErr := causeCode c, finalChunk := false } := rfl

/-! ## `surface` -/

@[simp] theorem surface_params (v : BitVec 7) : (surface v s).params = s.params := rfl
@[simp] theorem surface_img (v : BitVec 7) : (surface v s).img = s.img := rfl
@[simp] theorem surface_env (v : BitVec 7) : (surface v s).env = { s.env with trace := s.env.trace ++ [.p v] } := rfl
@[simp] theorem surface_cmd (v : BitVec 7) : (surface v s).cmd = s.cmd := rfl
@[simp] theorem surface_regs (v : BitVec 7) : (surface v s).regs = s.regs := rfl
@[simp] theorem surface_busy (v : BitVec 7) : (surface v s).busy = s.busy := rfl
@[simp] theorem surface_pos (v : BitVec 7) : (surface v s).pos = s.pos := rfl
@[simp] theorem surface_seq (v : BitVec 7) : (surface v s).seq = s.seq := rfl
@[simp] theorem surface_res (v : BitVec 7) : (surface v s).res = s.res := rfl
@[simp] theorem surface_fw (v : BitVec 7) : (surface v s).fw = { s.fw with lastProgress := v, progress := v, progressValid := true } := rfl

/-! ## `dropAck`: only the queued answers and the count of free answers change -/

@[simp] theorem dropAck_params : (dropAck s).params = s.params := by unfold dropAck; split <;> rfl
@[simp] theorem dropAck_img : (dropAck s).img = s.img := by unfold dropAck; split <;> rfl
@[simp] theorem dropAck_cmd : (dropAck s).cmd = s.cmd := by unfold dropAck; split <;> rfl
@[simp] theorem dropAck_regs : (dropAck s).regs = s.regs := by unfold dropAck; split <;> rfl
@[simp] theorem dropAck_busy : (dropAck s).busy = s.busy := by unfold dropAck; split <;> rfl
@[simp] theorem dropAck_pos : (dropAck s).pos = s.pos := by unfold dropAck; split <;> rfl
@[simp] theorem dropAck_seq : (dropAck s).seq = s.seq := by unfold dropAck; split <;> rfl
@[simp] theorem dropAck_res : (dropAck s).res = s.res := by unfold dropAck; split <;> rfl
@[simp] theorem dropAck_fw : (dropAck s).fw = s.fw := by unfold dropAck; split <;> rfl
@[simp] theorem dropAck_readQ : (dropAck s).env.readQ = s.env.readQ := by unfold dropAck; split <;> rfl
@[simp] theorem dropAck_inputs : (dropAck s).env.inputs = s.env.inputs := by unfold dropAck; split <;> rfl
@[simp] theorem dropAck_trace : (dropAck s).env.trace = s.env.trace := by unfold dropAck; split <;> rfl

/-! ## `dropRead`: only the queued answers and the count of free answers change -/

@[simp] theorem dropRead_params : (dropRead s).params = s.params := by unfold dropRead; split <;> rfl
@[simp] theorem dropRead_img : (dropRead s).img = s.img := by unfold dropRead; split <;> rfl
@[simp] theorem dropRead_cmd : (dropRead s).cmd = s.cmd := by unfold dropRead; split <;> rfl
@[simp] theorem dropRead_regs : (dropRead s).regs = s.regs := by unfold dropRead; split <;> rfl
@[simp] theorem dropRead_busy : (dropRead s).busy = s.busy := by unfold dropRead; split <;> rfl
@[simp] theorem dropRead_pos : (dropRead s).pos = s.pos := by unfold dropRead; split <;> rfl
@[simp] theorem dropRead_seq : (dropRead s).seq = s.seq := by unfold dropRead; split <;> rfl
@[simp] theorem dropRead_res : (dropRead s).res = s.res := by unfold dropRead; split <;> rfl
@[simp] theorem dropRead_fw : (dropRead s).fw = s.fw := by unfold dropRead; split <;> rfl
@[simp] theorem dropRead_ackQ : (dropRead s).env.ackQ = s.env.ackQ := by unfold dropRead; split <;> rfl
@[simp] theorem dropRead_inputs : (dropRead s).env.inputs = s.env.inputs := by unfold dropRead; split <;> rfl
@[simp] theorem dropRead_trace : (dropRead s).env.trace = s.env.trace := by unfold dropRead; split <;> rfl

/-! ## `tOpen` -/

@[simp] theorem tOpen_params (x : Nat) : (tOpen x s).params = s.params := by simp [tOpen]
@[simp] theorem tOpen_img (x : Nat) : (tOpen x s).img = s.img := by simp [tOpen]
@[simp] theorem tOpen_env (x : Nat) : (tOpen x s).env = { (dropAck s).env with trace := s.env.trace ++ [.o x (nextAck s)] } := by
  simp [tOpen]
@[simp] theorem tOpen_cmd (x : Nat) : (tOpen x s).cmd = s.cmd := by simp [tOpen]
@[simp] theorem tOpen_regs (x : Nat) : (tOpen x s).regs = s.regs := by simp [tOpen]
@[simp] theorem tOpen_busy (x : Nat) : (tOpen x s).busy = s.busy := by simp [tOpen]
@[simp] theorem tOpen_pos (x : Nat) : (tOpen x s).pos = s.pos := by simp [tOpen]
@[simp] theorem tOpen_seq (x : Nat) : (tOpen x s).seq = s.seq := by simp [tOpen]
@[simp] theorem tOpen_res (x : Nat) : (tOpen x s).res = s.res := by simp [tOpen]
@[simp] theorem tOpen_fw (x : Nat) : (tOpen x s).fw = s.fw := by simp [tOpen]

/-! ## `tWrite` -/

@[simp] theorem tWrite_params (b : Bytes) : (tWrite b s).params = s.params := by simp [tWrite]
@[simp] theorem tWrite_img (b : Bytes) : (tWrite b s).img = s.img := by simp [tWrite]
@[simp] theorem tWrite_env (b : Bytes) : (tWrite b s).env = { (dropAck s).env with trace := s.env.trace ++ [.w b (nextAck s)] } := by
  simp [tWrite]
@[simp] theorem tWrite_cmd (b : Bytes) : (tWrite b s).cmd = s.cmd := by simp [tWrite]
@[simp] theorem tWrite_regs (b : Bytes) : (tWrite b s).regs = s.regs := by simp [tWrite]
@[simp] theorem tWrite_busy (b : Bytes) : (tWrite b s).busy = s.busy := by simp [tWrite]
@[simp] theorem tWrite_pos (b : Bytes) : (tWrite b s).pos = s.pos := by simp [tWrite]
@[simp] theorem tWrite_seq (b : Bytes) : (tWrite b s).seq = s.seq := by simp [tWrite]
@[simp] theorem tWrite_res (b : Bytes) : (tWrite b s).res = s.res := by simp [tWrite]
@[simp] theorem tWrite_fw (b : Bytes) : (tWrite b s).fw = s.fw := by simp [tWrite]

/-! ## `tRead` -/

@[simp] theorem tRead_params (n : Nat) : (tRead n s).params = s.params := by simp [tRead]
@[simp] theorem tRead_img (n : Nat) : (tRead n s).img = s.img := by simp [tRead]
@[simp] theorem tRead_env (n : Nat) :
    (tRead n s).env = { (dropRead s).env with trace := s.env.trace ++ [.r n (nextRead n s)] } := by
  simp [tRead]
@[simp] theorem tRead_cmd (n : Nat) : (tRead n s).cmd = s.cmd := by simp [tRead]
@[simp] theorem tRead_regs (n : Nat) : (tRead n s).regs = s.regs := by simp [tRead]
@[simp] theorem tRead_busy (n : Nat) : (tRead n s).busy = s.busy := by simp [tRead]
@[simp] theorem tRead_pos (n : Nat) : (tRead n s).pos = s.pos := by simp [tRead]
@[simp] theorem tRead_seq (n : Nat) : (tRead n s).seq = fillRbuf (nextRead n s) s.seq := by simp [tRead]
@[simp] theorem tRead_res (n : Nat) : (tRead n s).res = s.res := by simp [tRead]
@[simp] theorem tRead_fw (n : Nat) : (tRead n s).fw = s.fw := by simp [tRead]

end Sys2Proof.Machine
end

