-- ==== Sys2Proof/Laws/Codec.lean ====
section
/-! SUPPORT. Lengths and offsets of byte sequences, frames and memory reads. -/

namespace Sys2Proof.Machine

@[simp] theorem be_length (v w : Nat) : (be v w).length = w := by
  induction w with
  | zero => rfl
  | succ w ih => simp [be, ih]

/-- `CHK` gives exactly `TRAILER_LEN` bytes (R9). -/
@[simp] theorem chk_length (P : Params) (s : Bytes) : (chk P s).length = P.trailerLen := by
  unfold chk Params.trailerLen
  cases P.trailer <;> simp

@[simp] theorem frameBody_length (s o d : Byte) (p : Bytes) : (frameBody s o d p).length = 5 + p.length := by
  simp [frameBody, headerBytes]; omega

/-- A serialized frame has `SIZE(|p|)` bytes (R10, R130). -/
@[simp] theorem serialize_length (P : Params) (s o d : Byte) (p : Bytes) :
    (serialize P s o d p).length = P.size p.length := by
  simp [serialize, Params.size, Config.headerSize]

/-- Splitting header and rest undoes `headerBytes`. -/
theorem splitHeader_headerBytes (s o d : Byte) (n : Nat) (rest : Bytes) (hn : n ≤ 65535) :
    splitHeader (headerBytes s o d n ++ rest) = some (⟨s, o, d, n⟩, rest) := by
  simp [headerBytes, be, splitHeader, ube]; omega

/-- A sequence read byte by byte. -/
theorem Memory.readSeq_get (m : Memory) (a n j : Nat) (h : j < n) :
    (Memory.readSeq m a n)[j]? = some (Memory.read m (a + j)) := by
  induction n generalizing a j with
  | zero => omega
  | succ n ih =>
    cases j with
    | zero => simp [Memory.readSeq]
    | succ j => simp [Memory.readSeq, ih (a + 1) j (by omega), Nat.add_assoc, Nat.add_comm 1 j]

/-- Two reads side by side are one read. -/
theorem Memory.readSeq_append (m : Memory) (a x y : Nat) :
    Memory.readSeq m a x ++ Memory.readSeq m (a + x) y = Memory.readSeq m a (x + y) := by
  induction x generalizing a with
  | zero => simp [Memory.readSeq]
  | succ x ih =>
    rw [Nat.succ_add, Memory.readSeq, Memory.readSeq, List.cons_append, ← ih (a + 1)]
    simp [Nat.add_assoc, Nat.add_comm 1 x]

/-- The frame loaded into the transmit buffer is the frame sent, if it fits `TXLEN` (R31). -/
theorem toSend_loadFrame (f : Bytes) (s : State) (h : f.length < 2 ^ 17) : toSend (loadFrame f s) = f := by
  have h' : (BitVec.ofNat 17 f.length).toNat = f.length := by simpa using h
  simp only [toSend, loadFrame, goto]
  rw [h', List.take_length]

end Sys2Proof.Machine
end

