-- ==== Sys2Proof/Laws/Ops.lean ====
section
/-! SUPPORT. One lemma per shared operation: everything it can do. The proofs about `exec` and `step` cite these. -/

namespace Sys2Proof.Machine

/-! ## The transport -/

/-- A transport never returns more than it was asked for. -/
theorem nextRead_length_le (n : Nat) (s : State) (b : Bytes) (h : nextRead n s = .bytes b) : b.length ≤ n := by
  have hcut : ∀ a : ReadAns, cutAns n a = .bytes b → b.length ≤ n := by
    intro a ha
    cases a with
    | fault => simp [cutAns] at ha
    | bytes x => simp only [cutAns, ReadAns.bytes.injEq] at ha; subst ha; simp
  unfold nextRead at h
  split at h <;> exact hcut _ h

/-- The transport's answers depend on the world outside only. -/
theorem nextAck_congr {s t : State} (h : t.env = s.env) : nextAck t = nextAck s := by
  unfold nextAck; rw [h]

theorem nextRead_congr {s t : State} (n : Nat) (h : t.env = s.env) : nextRead n t = nextRead n s := by
  unfold nextRead; rw [h]

theorem dropAck_env_congr {s t : State} (h : t.env = s.env) : (dropAck t).env = (dropAck s).env := by
  unfold dropAck; rw [h]; split <;> simp

theorem dropRead_env_congr {s t : State} (h : t.env = s.env) : (dropRead t).env = (dropRead s).env := by
  unfold dropRead; rw [h]; split <;> simp

/-- The receive buffer after a `T_READ` holds the answer's bytes, and nothing after a fault (R173). -/
theorem received_tRead (n : Nat) (hn : n < 2 ^ 16) (s : State) :
    received (tRead n s) = (match nextRead n s with | .fault => [] | .bytes b => b) := by
  unfold received
  rw [tRead_seq]
  cases h : nextRead n s with
  | fault => simp [fillRbuf]
  | bytes b =>
    have := nextRead_length_le n s b h
    simp [fillRbuf, Nat.mod_eq_of_lt (show b.length < 65536 by omega)]

/-! ## The issue -/

/-- A command is discarded while busy, else it runs from the issued state (R26). -/
theorem ifIdle_cases (s : State) (run : State → State) :
    (s.busy = true ∧ ifIdle s run = .next s) ∨ (s.busy = false ∧ ifIdle s run = .next (run (issue s))) := by
  unfold ifIdle
  cases h : s.busy <;> simp

/-! ## The exchange -/

/-- Who waits for the exchange. -/
theorem caller_cases (s : State) :
    (caller s = .erase ∧ s.fw.fwState = .erasing) ∨ (caller s = .chunk ∧ s.fw.fwState = .streaming) ∨
      (caller s = .command ∧ s.fw.fwState ≠ .erasing ∧ s.fw.fwState ≠ .streaming) := by
  unfold caller
  cases h : s.fw.fwState <;> simp

/-- The arguments of the exchange, by who waits for it (R180, R202, R210). -/
theorem exchangeArgs_cases (s : State) :
    (s.fw.fwState = .erasing ∧ exchangeSize s = BitVec.ofNat 16 (s.params.size 1) ∧
      exchangeTimeout s = s.regs.eraseTimeoutMs) ∨
    (s.fw.fwState = .streaming ∧ exchangeSize s = BitVec.ofNat 16 (s.params.size 2) ∧
      exchangeTimeout s = s.regs.chunkTimeoutMs) ∨
    (s.fw.fwState ≠ .erasing ∧ s.fw.fwState ≠ .streaming ∧ exchangeSize s = s.regs.dRsize ∧
      exchangeTimeout s = s.regs.timeoutMs) := by
  unfold exchangeSize exchangeTimeout
  rcases caller_cases s with ⟨hc, hf⟩ | ⟨hc, hf⟩ | ⟨hc, hf⟩ <;> simp [hc, hf]

/-- The arguments depend on `FW_STATE`, the operand registers and the parameters only. -/
theorem exchangeSize_congr {s t : State} (hf : t.fw.fwState = s.fw.fwState) (hr : t.regs = s.regs)
    (hp : t.params = s.params) : exchangeSize t = exchangeSize s := by
  unfold exchangeSize caller; rw [hf, hr, hp]

theorem exchangeTimeout_congr {s t : State} (hf : t.fw.fwState = s.fw.fwState) (hr : t.regs = s.regs) :
    exchangeTimeout t = exchangeTimeout s := by
  unfold exchangeTimeout caller; rw [hf, hr]

/-- What `EXECUTE` does with an accepted frame. -/
theorem returnFrame_cases (f : Frame) (s : State) :
    (caller s = .command ∧ returnFrame f s = deliver f (setRState .idle s)) ∨
    (caller s = .erase ∧ f.payload = [] ∧ returnFrame f s = abort .storageClearFailed s) ∨
    (∃ st q, caller s = .erase ∧ f.payload = st :: q ∧
      returnFrame f s = goto (.op (.clearStorageReply f.opcode f.dir st)) (setRState .idle s)) ∨
    (caller s = .chunk ∧ returnFrame f s =
      goto (.op (.fwChunkReply f.opcode f.dir (BitVec.ofNat 16 (ube (f.payload.take 2))))) (setRState .idle s)) := by
  unfold returnFrame
  cases h : caller s with
  | command => simp
  | chunk => simp
  | erase => cases hp : f.payload <;> simp

/-- What `EXECUTE` does when it is exhausted (R243). -/
theorem returnNone_cases (s : State) :
    (caller s = .command ∧ returnNone s = endUnavailable (setRState .idle s)) ∨
    (caller s = .erase ∧ returnNone s = abort .storageClearFailed s) ∨
    (caller s = .chunk ∧ returnNone s = abort .chunkNoResponse s) := by
  unfold returnNone
  cases h : caller s <;> simp

/-- After a backoff: exhausted at the tenth attempt, else the next attempt (R175). -/
theorem afterBackoff_cases (s : State) :
    (s.seq.attempt.toNat = 9 ∧ afterBackoff s = returnNone s) ∨
    (s.seq.attempt.toNat ≠ 9 ∧ afterBackoff s =
      goto .send { s with seq := { s.seq with attempt := s.seq.attempt + 1, rstate := .send } }) := by
  unfold afterBackoff
  by_cases h : s.seq.attempt.toNat = 9 <;> simp [Config.maxAttempts, h]

/-! ## The tracker -/

/-- An acknowledged chunk: at once when the progress value repeats, after the hold when it is surfaced (R219). -/
theorem acknowledge_cases (a : AfterAck) (s : State) :
    (progressOf s.fw.chunkIndex s.fw.chunkCount = s.fw.lastProgress ∧ acknowledge a s = proceed a s) ∨
    (progressOf s.fw.chunkIndex s.fw.chunkCount ≠ s.fw.lastProgress ∧ acknowledge a s =
      goto (.hold a) (surface (progressOf s.fw.chunkIndex s.fw.chunkCount) s)) := by
  unfold acknowledge
  by_cases h : progressOf s.fw.chunkIndex s.fw.chunkCount = s.fw.lastProgress <;> simp [h]

/-- Counting the chunks (R208). -/
theorem countChunks_cases (s : State) :
    (imageChunks s = 0 ∧ countChunks s = abort .emptyImage s) ∨
    (0xFFFE < imageChunks s ∧ countChunks s = abort .imageTooLarge s) ∨
    (1 ≤ imageChunks s ∧ imageChunks s ≤ 0xFFFE ∧ countChunks s =
      goto .loadChunk
        { s with fw := { s.fw with chunkCount := BitVec.ofNat 16 (imageChunks s), chunkIndex := 1 } }) := by
  unfold countChunks
  by_cases h0 : imageChunks s = 0
  · simp [h0]
  · by_cases h1 : 0xFFFE < imageChunks s
    · simp [h0, h1]
    · simp [h0, h1]; omega

/-- The reply to a chunk (R213 to R216). -/
theorem execFwChunkReply_cases (o d : Byte) (r : Half) (s : State) :
    (r = Config.sentinel ∧ execFwChunkReply o d r s = .next (acknowledge .finalize (setReqId r s))) ∨
    (r ≠ Config.sentinel ∧ r = s.fw.chunkIndex ∧
      execFwChunkReply o d r s = .next (goto .loadChunk (setReqId r s))) ∨
    (r ≠ Config.sentinel ∧ r.toNat = s.fw.chunkIndex.toNat + 1 ∧ s.fw.chunkIndex.toNat < s.fw.chunkCount.toNat ∧
      execFwChunkReply o d r s = .next (acknowledge .advance (setReqId r s))) ∨
    (r ≠ Config.sentinel ∧ r ≠ s.fw.chunkIndex ∧
      execFwChunkReply o d r s = .next (abort .uninterpretableRequest (setReqId r s))) := by
  unfold execFwChunkReply
  by_cases h1 : r = Config.sentinel
  · simp [h1]
  · by_cases h2 : r = s.fw.chunkIndex
    · exact .inr (.inl ⟨h1, h2, by dsimp only; rw [if_neg h1, if_pos h2]⟩)
    · by_cases h3 : r.toNat = s.fw.chunkIndex.toNat + 1 ∧ s.fw.chunkIndex.toNat < s.fw.chunkCount.toNat
      · simp [h1, h2, h3]
      · simp [h1, h2, h3]

/-! ## The step -/

/-- What one step is: a written command code, a move of the host, or a step of the engine. -/
theorem step_cases (s : State) :
    (∃ c, s.cmd = some c ∧ machineStep s = exec (decodeCmd c) (dropCmd s)) ∨
    (s.cmd = none ∧ s.env.inputs = [] ∧ machineStep s = engineStep s) ∨
    (∃ m q, s.cmd = none ∧ s.env.inputs = m :: q ∧ machineStep s = hostMove m (dropInput s)) := by
  unfold machineStep
  cases hc : s.cmd with
  | some c => simp
  | none => cases hi : s.env.inputs <;> simp

end Sys2Proof.Machine
end

