-- ==== Sys2Proof/Laws/PerInstr.lean ====
section
/-! SUPPORT. Statements about every instruction as syntax, one lemma per constructor. -/

namespace Sys2Proof.Laws.FixedBits

/-- The fixed bits of a row of spec/opcode_table.json: an offset, a mask, and what the byte there is under the mask. -/
def fixedBits : Instr → List (Nat × Byte × Byte)
  | .nop => [(0, 0xFF, 0)]
  | .openBus => [(0, 0xFF, 1)]
  | .read => [(0, 0xFF, 2)]
  | .writeValue => [(0, 0xFF, 3)]
  | .writeBytes => [(0, 0xFF, 4)]
  | .fwUpdate => [(0, 0xFF, 5)]
  | .progressTake => [(0, 0xFF, 6)]
  | .reserved7 => [(0, 0xFF, 7)]
  | .reserved8ToF _ => [(0, 0xF8, 8)]
  | .ser _ _ _ _ => []
  | .encodeRequest _ _ => [(0, 0xFF, 0xCD), (2, 0xFF, 0x01)]
  | .decodeResponse _ => [(0, 0xFF, 0xDC)]
  | .fwChunkRequest _ _ _ _ => [(0, 0xFF, 0xCD), (2, 0xFF, 0x01)]
  | .fwChunkReply _ _ _ => [(0, 0xFF, 0xDC), (3, 0xFF, 0), (4, 0xFF, 2)]
  | .clearStorageRequest _ => [(0, 0xFF, 0xCD), (2, 0xFF, 0x01), (3, 0xFF, 0), (4, 0xFF, 0)]
  | .clearStorageReply _ _ _ => [(0, 0xFF, 0xDC), (3, 0xFF, 0), (4, 0xFF, 1)]
  | .resetForBootRequest _ => [(0, 0xFF, 0xCD), (2, 0xFF, 0x01), (3, 0xFF, 0), (4, 0xFF, 0)]
  | .resetMcuRequest _ => [(0, 0xFF, 0xCD), (2, 0xFF, 0x01), (3, 0xFF, 0), (4, 0xFF, 0)]

/-- A byte of the encoding agrees with a fixed part of the row. -/
def agrees (b : Bytes) (f : Nat × Byte × Byte) : Prop := ∃ x, b[f.1]? = some x ∧ x &&& f.2.1 = f.2.2

/-- The encoding of a well-formed instruction has the fixed bits of its row. -/
def Statement (i : Instr) : Prop := i.wf = true → ∀ f ∈ fixedBits i, agrees (encode i).2 f

/-- The five header bytes by offset. -/
theorem frameBody_header (s o d : Byte) (p : Bytes) : frameBody s o d p =
    s :: o :: d :: BitVec.ofNat 8 (p.length >>> 8) :: BitVec.ofNat 8 p.length :: p := by
  simp [frameBody, headerBytes, Machine.be]

theorem nop : Statement .nop := by simp [Statement, fixedBits, agrees, encode, cmdByte]
theorem openBus : Statement .openBus := by simp [Statement, fixedBits, agrees, encode, cmdByte]
theorem read : Statement .read := by simp [Statement, fixedBits, agrees, encode, cmdByte]
theorem writeValue : Statement .writeValue := by simp [Statement, fixedBits, agrees, encode, cmdByte]
theorem writeBytes : Statement .writeBytes := by simp [Statement, fixedBits, agrees, encode, cmdByte]
theorem fwUpdate : Statement .fwUpdate := by simp [Statement, fixedBits, agrees, encode, cmdByte]
theorem progressTake : Statement .progressTake := by simp [Statement, fixedBits, agrees, encode, cmdByte]
theorem reserved7 : Statement .reserved7 := by simp [Statement, fixedBits, agrees, encode, cmdByte]

theorem reserved8ToF (x : BitVec 3) : Statement (.reserved8ToF x) := by
  have h : ∀ x : BitVec 3, (1#1 ++ x).setWidth 8 &&& 0xF8#8 = 8#8 := by decide
  intro _ f hf
  simp only [fixedBits, List.mem_singleton] at hf
  subst hf
  exact ⟨_, rfl, h x⟩

theorem ser (s o d : Byte) (p : Bytes) : Statement (.ser s o d p) := by simp [Statement, fixedBits]

theorem encodeRequest (o : Byte) (p : Bytes) : Statement (.encodeRequest o p) := by
  simp [Statement, fixedBits, agrees, encode, frameBody_header, Config.startSent, Config.dirReq]

theorem decodeResponse (b : Bytes) : Statement (.decodeResponse b) := by
  intro h f hf
  simp only [Instr.wf, responseShaped, decide_eq_true_eq] at h
  simp only [fixedBits, List.mem_singleton] at hf
  subst hf
  exact ⟨Config.startRecv, by rw [encode, ← List.head?_eq_getElem?]; exact h.2.2, rfl⟩

theorem fwChunkRequest (c : Byte) (count id : Half) (data : Bytes) : Statement (.fwChunkRequest c count id data) := by
  simp [Statement, fixedBits, agrees, encode, frameBody_header, Config.startSent, Config.dirReq]

theorem fwChunkReply (o d : Byte) (id : Half) : Statement (.fwChunkReply o d id) := by
  simp [Statement, fixedBits, agrees, encode, frameBody_header, Config.startRecv, Machine.be]

theorem clearStorageRequest (c : Byte) : Statement (.clearStorageRequest c) := by
  simp [Statement, fixedBits, agrees, encode, frameBody_header, Config.startSent, Config.dirReq]

theorem clearStorageReply (o d status : Byte) : Statement (.clearStorageReply o d status) := by
  simp [Statement, fixedBits, agrees, encode, frameBody_header, Config.startRecv]

theorem resetForBootRequest (c : Byte) : Statement (.resetForBootRequest c) := by
  simp [Statement, fixedBits, agrees, encode, frameBody_header, Config.startSent, Config.dirReq]

theorem resetMcuRequest (c : Byte) : Statement (.resetMcuRequest c) := by
  simp [Statement, fixedBits, agrees, encode, frameBody_header, Config.startSent, Config.dirReq]

end Sys2Proof.Laws.FixedBits
end

