-- ==== Sys2Proof/Laws/Run.lean ====
section
/-! SUPPORT. Runs of the machine: how they compose, and that they are the host's runs. -/

namespace Sys2Proof.Machine

/-- `runFor` is the host's run of the machine. -/
theorem runFor_eq_core_run (k : Nat) (s : State) : runFor k s = Host.Core.run Sys2Proof.core k s := by
  induction k generalizing s with
  | zero => rfl
  | succ k ih =>
    refine Eq.trans ?_ (Host.Core.run.eq_2 Sys2Proof.core s k).symm
    have hs : Sys2Proof.core.step s = step s := rfl
    rw [runFor, hs]
    cases step s with
    | next t => exact ih t
    | fault f => rfl
    | refused r => rfl

@[simp] theorem runFor_zero (s : State) : runFor 0 s = .next s := rfl

/-- One step at the front of a run. -/
theorem runFor_succ {s t : State} (k : Nat) (h : step s = .next t) : runFor (k + 1) s = runFor k t := by
  rw [runFor, h]

/-- A run may be cut in two. -/
theorem runFor_add {s t : State} (a b : Nat) (h : runFor a s = .next t) : runFor (a + b) s = runFor b t := by
  induction a generalizing s with
  | zero => rw [runFor_zero, Host.Outcome.next.injEq] at h; rw [h, Nat.zero_add]
  | succ a ih =>
    rw [Nat.succ_add]
    cases hs : step s with
    | next u => rw [runFor_succ _ hs] at h ⊢; exact ih h
    | fault f => simp [runFor, hs] at h
    | refused r => simp [runFor, hs] at h

theorem Reaches.refl (s : State) : Reaches s s := ⟨0, rfl⟩

theorem Reaches.trans {s t u : State} (h : Reaches s t) (h' : Reaches t u) : Reaches s u := by
  obtain ⟨a, ha⟩ := h
  obtain ⟨b, hb⟩ := h'
  exact ⟨a + b, by rw [runFor_add a b ha, hb]⟩

theorem Reaches.of_step {s t : State} (h : step s = .next t) : Reaches s t := ⟨1, by rw [runFor_succ 0 h]; rfl⟩

/-- While the host is silent a step is a step of the engine. -/
theorem step_quiet {s : State} (h : Quiet s) : step s = engineStep s := by
  unfold step machineStep
  rw [h.1, h.2]

end Sys2Proof.Machine
end

