-- ==== Sys2Proof/Tests/Slice0.lean ====
section
/-! SUPPORT. The model's own tests: expected values are the spec's (`95_test_vectors.md`, named in each docstring, or an encoding of
`30_encoding.md` written out bit by bit). The last part shows, for every statement with hypotheses, a state and operands
that meet them. -/

namespace Sys2Proof.Tests

open Sys2Proof Sys2Proof.Machine

set_option maxRecDepth 16000

/-! ## Small states -/

/-- The parameters of the vectors. -/
def vectorParams : Params :=
  ⟨.crc16Xmodem, 20, 65535, 0xE0, 0xE1, 0xE2, 0xE3, 0x01, 7⟩

/-- The machine after reset with the parameters of the vectors. -/
def start : State := { State.reset with params := vectorParams }

/-- An operation in progress at a place of the pseudocode. -/
def running (p : Pos) : State := { start with busy := true, pos := p }

/-- A firmware session on a 70-byte image whose chunk `k` of 4 is current, at a place of the pseudocode. -/
def session (k : Half) (p : Pos) : State :=
  { running p with
    regs := { Operands.reset with imgLen := 70, eraseTimeoutMs := 50, chunkTimeoutMs := 5 }
    fw := { Tracker.reset with fwState := .streaming, chunkCount := 4, chunkIndex := k, reqId := k } }

/-- The response `G` of the vectors. -/
def frameG : Bytes := [0xDC, 0x0A, 0x02, 0x00, 0x02, 0xFE, 0x0C, 0x4E, 0xA6]

/-- The next state of an outcome, for looking at its fields. -/
def after (r : Result) (s : State) : State :=
  match r with
  | .next t => t
  | .fault _ => s
  | .refused _ => s

/-- The state after one instruction. -/
def did (i : Instr) (s : State) : State := after (exec i s) s

/-! ## Ill-formed terms are refused -/

theorem test_wf_refuses_long_ser : (Instr.ser 0xCD 0 1 (List.replicate 65536 0)).wf = false := by
  simp only [Instr.wf, payloadFits, List.length_replicate]; decide

theorem test_wf_refuses_long_request : (Instr.encodeRequest 0 (List.replicate 65536 0)).wf = false := by
  simp only [Instr.wf, payloadFits, List.length_replicate]; decide

theorem test_wf_refuses_short_response : (Instr.decodeResponse [0xDC, 0x0A, 0x02, 0x00]).wf = false := by decide

theorem test_wf_refuses_wrong_start : (Instr.decodeResponse [0xCD, 0x0A, 0x02, 0x00, 0x00]).wf = false := by decide

theorem test_wf_refuses_long_response :
    (Instr.decodeResponse (0xDC :: List.replicate 65535 0)).wf = false := by
  simp only [Instr.wf, responseShaped, List.length_cons, List.length_replicate]; decide

theorem test_wf_refuses_empty_chunk : (Instr.fwChunkRequest 0xE2 4 1 []).wf = false := by decide

theorem test_wf_refuses_long_chunk : (Instr.fwChunkRequest 0xE2 4 1 (List.replicate 65532 0)).wf = false := by
  simp only [Instr.wf, chunkFits, List.length_replicate]; decide

/-! ## Decoding: words written out from the encoding tables -/

theorem test_decode_nop : decode .cmd4 [0b0000] = .ok .nop := by decide
theorem test_decode_open : decode .cmd4 [0b0001] = .ok .openBus := by decide
theorem test_decode_read : decode .cmd4 [0b0010] = .ok .read := by decide
theorem test_decode_write_value : decode .cmd4 [0b0011] = .ok .writeValue := by decide
theorem test_decode_write_bytes : decode .cmd4 [0b0100] = .ok .writeBytes := by decide
theorem test_decode_fw_update : decode .cmd4 [0b0101] = .ok .fwUpdate := by decide
theorem test_decode_progress_take : decode .cmd4 [0b0110] = .ok .progressTake := by decide
theorem test_decode_reserved_7 : decode .cmd4 [0b0111] = .ok .reserved7 := by decide
theorem test_decode_reserved_8 : decode .cmd4 [0b1000] = .ok (.reserved8ToF 0) := by decide
theorem test_decode_reserved_d : decode .cmd4 [0b1101] = .ok (.reserved8ToF 0b101) := by decide

/-- The header and payload of `SER(CD, FF, 01, [34 12])`, bit by bit. -/
theorem test_decode_ser :
    decode (.frame .serialize)
      [0b11001101, 0b11111111, 0b00000001, 0b00000000, 0b00000010, 0b00110100, 0b00010010] =
    .ok (.ser 0xCD 0xFF 0x01 [0x34, 0x12]) := by decide

theorem test_decode_encode_request :
    decode (.frame .request) [0b11001101, 0b00001100, 0b00000001, 0b00000000, 0b00000010, 0b00010010, 0b00110100] =
    .ok (.encodeRequest 0x0C [0x12, 0x34]) := by decide

theorem test_decode_decode_response :
    decode (.frame .response) [0b11011100, 0b00001010, 0b00000010, 0b00000000, 0b00000000, 0b10111010, 0b00000010] =
    .ok (.decodeResponse [0xDC, 0x0A, 0x02, 0x00, 0x00, 0xBA, 0x02]) := by decide

/-- E17 without its trailer: `CHUNK_PAYLOAD(4, 2, [AA BB])`. -/
theorem test_decode_fw_chunk_request :
    decode (.frame .chunkRequest) [0b11001101, 0b11100010, 0b00000001, 0b00000000, 0b00000110, 0b00000000, 0b00000100,
      0b00000000, 0b00000010, 0b10101010, 0b10111011] = .ok (.fwChunkRequest 0xE2 4 2 [0xAA, 0xBB]) := by decide

/-- `AF` without its trailer. -/
theorem test_decode_fw_chunk_reply :
    decode (.frame .chunkReply) [0b11011100, 0b11100010, 0b00000010, 0b00000000, 0b00000010, 0b11111111, 0b11111110] =
    .ok (.fwChunkReply 0xE2 0x02 0xFFFE) := by decide

theorem test_decode_clear_storage_request :
    decode (.frame .clearRequest) [0b11001101, 0b11100000, 0b00000001, 0b00000000, 0b00000000] =
    .ok (.clearStorageRequest 0xE0) := by decide

theorem test_decode_clear_storage_reply :
    decode (.frame .clearReply) [0b11011100, 0b11100000, 0b00000010, 0b00000000, 0b00000001, 0b00000001] =
    .ok (.clearStorageReply 0xE0 0x02 0x01) := by decide

theorem test_decode_reset_for_boot_request :
    decode (.frame .bootRequest) [0b11001101, 0b11100001, 0b00000001, 0b00000000, 0b00000000] =
    .ok (.resetForBootRequest 0xE1) := by decide

theorem test_decode_reset_mcu_request :
    decode (.frame .mcuResetRequest) [0b11001101, 0b11100011, 0b00000001, 0b00000000, 0b00000000] =
    .ok (.resetMcuRequest 0xE3) := by decide

theorem test_decode_rejects_wide_command : decode .cmd4 [0x12] = .error .wideCommand := by decide
theorem test_decode_rejects_no_byte : decode .cmd4 [] = .error .empty := by decide
theorem test_decode_rejects_short_header : decode (.frame .request) [0xCD, 0, 1, 0] = .error .shortHeader := by decide
theorem test_decode_rejects_wrong_start : decode (.frame .request) [0xDC, 0, 1, 0, 0] = .error .badStart := by decide
theorem test_decode_rejects_wrong_direction : decode (.frame .bootRequest) [0xCD, 0, 2, 0, 0] = .error .badDirection := by
  decide
theorem test_decode_rejects_short_payload : decode (.frame .serialize) [0xCD, 0, 1, 0, 2, 7] = .error .shortPayload := by
  decide
theorem test_decode_rejects_long_payload : decode (.frame .serialize) [0xCD, 0, 1, 0, 0, 7] = .error .longPayload := by
  decide
theorem test_decode_rejects_chunk_without_data :
    decode (.frame .chunkRequest) [0xCD, 0, 1, 0, 4, 0, 4, 0, 1] = .error .badLength := by decide

/-! ## The pure functions -/

/-- The check value of CRC-16/XMODEM over the digits 1 to 9 (R97). -/
theorem test_crc_check_value : crc16 [0x31, 0x32, 0x33, 0x34, 0x35, 0x36, 0x37, 0x38, 0x39] = 0x31C3 := by decide

/-- E1. -/
theorem test_serialize_empty :
    serialize vectorParams 0xCD 0x0A 0x01 [] = [0xCD, 0x0A, 0x01, 0x00, 0x00, 0x4D, 0x59] := by decide

/-- E5. -/
theorem test_request_frame :
    requestFrame vectorParams 0x0C [0x12, 0x34] = [0xCD, 0x0C, 0x01, 0x00, 0x02, 0x12, 0x34, 0x40, 0x0B] := by decide

/-- E13, E15. -/
theorem test_pack : pack 0xFFFFFFFFFFFFFE0C 2 = some [0xFE, 0x0C] ∧ pack 5 0 = none ∧ pack 5 9 = none := by decide

/-- X1. -/
theorem test_decode_accepts : decodeResponse vectorParams frameG 9 = some ⟨0x0A, 0x02, 2, [0xFE, 0x0C]⟩ := by decide

/-- X12: a length field the buffer has no room for. -/
theorem test_decode_rejects_length :
    decodeResponse vectorParams [0xDC, 0x0A, 0x02, 0x00, 0x03, 0xFE, 0x0C, 0x79, 0x96] 9 = none := by decide

/-- X13: one trailer bit changed. -/
theorem test_decode_rejects_trailer :
    decodeResponse vectorParams [0xDC, 0x0A, 0x02, 0x00, 0x02, 0xFE, 0x0C, 0x4E, 0xA7] 9 = none := by decide

/-- X16. -/
theorem test_views : (unsignedView [0xFE, 0x0C]).toNat = 65036 ∧ (signedView [0xFE, 0x0C]).toInt = -500 := by decide

/-- S4: 70, 80 and 81 bytes in chunks of 20, and the last chunk's length. -/
theorem test_chunk_count : chunkCountOf 70 20 = 4 ∧ chunkCountOf 80 20 = 4 ∧ chunkCountOf 81 20 = 5 ∧
    chunkLen 70 20 4 4 = 10 ∧ chunkLen 40 20 2 2 = 20 := by decide

/-- The progress values of 3 chunks, and of chunk 2 of 250. -/
theorem test_progress : progressOf 1 3 = 33 ∧ progressOf 2 3 = 66 ∧ progressOf 3 3 = 100 ∧ progressOf 2 250 = 0 := by decide

/-! ## One step of each instruction -/

/-- H3. -/
theorem test_nop : (did .nop start).env.trace = [.e .ok 0x00] ∧ (did .nop start).busy = false := by decide

theorem test_nop_while_busy : (did .nop (running .send)).env.trace = [] := by decide

/-- H1, H2: the call goes to `BUS_ADDR`. -/
theorem test_open : (did .openBus start).pos = .openCall ∧ (did .openBus start).busy = true := by decide

theorem test_open_fault :
    (openCall { running .openCall with
      regs := { Operands.reset with busAddr := 0x41 }
      env := { start.env with ackQ := [.fault] } }).env.trace = [.o 0x41 .fault, .e .unavailable 0x00] := by decide

theorem test_read : (did .read { start with regs := { Operands.reset with dOpcode := 0x0A } }).pos =
    .op (.encodeRequest 0x0A []) := by decide

/-- P3's payload: 1000 in 4 bytes. -/
theorem test_write_value :
    (did .writeValue { start with regs := { Operands.reset with dOpcode := 0x0D, value := 1000, vwidth := 4 } }).pos =
    .op (.encodeRequest 0x0D [0x00, 0x00, 0x03, 0xE8]) := by decide

/-- H7: width 0. -/
theorem test_write_value_violates : (did .writeValue start).res.code = 0x01 ∧ (did .writeValue start).busy = false := by
  decide

theorem test_write_bytes :
    (did .writeBytes { start with
      regs := { Operands.reset with dOpcode := 0x0C, plen := 3, pbuf := [(0, 0x12), (2, 0x34)] } }).pos =
    .op (.encodeRequest 0x0C [0x12, 0x00, 0x34]) := by decide

/-- V8: a new session clears `FW_ERR`. -/
theorem test_fw_update :
    (did .fwUpdate { start with fw := { Tracker.reset with fwState := .aborted, fwErr := 0x10 } }).fw.fwErr = 0x00 ∧
    (did .fwUpdate start).fw.fwState = .erasing ∧ (did .fwUpdate start).pos = .op (.clearStorageRequest 0xE0) := by decide

theorem test_progress_take_while_busy :
    (did .progressTake { session 1 (.hold .advance) with
      fw := { (session 1 (.hold .advance)).fw with progressValid := true } }).fw.progressValid = false ∧
    (did .progressTake (session 1 (.hold .advance))).busy = true := by decide

theorem test_progress_take_while_idle : (did .progressTake start).env.trace = [.e .ok 0x00] := by decide

theorem test_reserved_7 : (did .reserved7 start).res.code = 0x02 := by decide

/-- H4. -/
theorem test_reserved_9 : (did (.reserved8ToF 1) start).env.trace = [.e .violation 0x02] := by decide

/-- E1, into the transmit buffer. -/
theorem test_ser : (did (.ser 0xCD 0x0A 0x01 []) (running .idle)).seq.txbuf = [0xCD, 0x0A, 0x01, 0x00, 0x00, 0x4D, 0x59] ∧
    (did (.ser 0xCD 0x0A 0x01 []) (running .idle)).seq.txlen = 7 := by decide

/-- The expected sizes and delays of an erase, of a chunk and of an ordinary command (R180, R202, R210). -/
theorem test_ser_expects :
    ((did (.ser 0xCD 0xE0 0x01 []) { session 0 .idle with fw := { Tracker.reset with fwState := .erasing } }).seq.xRsize,
      (did (.ser 0xCD 0xE2 0x01 [0]) (session 2 .idle)).seq.xRsize,
      (did (.ser 0xCD 0xE2 0x01 [0]) (session 2 .idle)).seq.xTimeout,
      (did (.ser 0xCD 0x0A 0x01 []) { running .idle with regs := { Operands.reset with dRsize := 9 } }).seq.xRsize) =
    (8, 9, 5, 9) := by decide

/-- E10: the declared length is 1. -/
theorem test_encode_request_violates :
    (did (.encodeRequest 0x0C [0x12, 0x34]) { running .idle with regs := { Operands.reset with dPlen := 1 } }).res.code =
    0x01 := by decide

/-- The direction byte is `0x01` whatever `D_DIR` holds. -/
theorem test_encode_request :
    (did (.encodeRequest 0x0C [0x12]) { running .idle with
      regs := { Operands.reset with dPlen := 1, dDir := 0x77 } }).pos = .op (.ser 0xCD 0x0C 0x01 [0x12]) := by decide

/-- P1's response. -/
theorem test_decode_response :
    (did (.decodeResponse [0xDC, 0x0A, 0x02, 0x00, 0x02, 0x01, 0xF4, 0x23, 0x4E])
      { running .check with seq := { Sequencer.reset with xRsize := 9 } }).res =
    ⟨.ok, 0x00, 0x0A, 0x02, 2, [0x01, 0xF4], 500, 500, true⟩ := by decide

/-- A rejected response goes to the backoff. -/
theorem test_decode_response_rejects :
    (did (.decodeResponse frameG) { running .check with seq := { Sequencer.reset with xRsize := 11 } }).pos =
    .startSleep .backoff := by decide

theorem test_fw_chunk_request :
    (did (.fwChunkRequest 0xE2 4 2 [0xAA, 0xBB]) (session 2 .idle)).pos =
      .op (.ser 0xCD 0xE2 0x01 [0x00, 0x04, 0x00, 0x02, 0xAA, 0xBB]) := by decide

/-- F1: chunk 1 acknowledged, 25 surfaced. -/
theorem test_fw_chunk_reply_next :
    (did (.fwChunkReply 0xE2 0x02 2) (session 1 .idle)).env.trace = [.p 25] := by decide

/-- F9: `k + 1` but `k = CHUNK_COUNT`. -/
theorem test_fw_chunk_reply_beyond :
    (did (.fwChunkReply 0xE2 0x02 5) (session 4 .idle)).res.code = 0x12 := by decide

theorem test_clear_storage_request :
    (did (.clearStorageRequest 0xE0) (session 0 .idle)).pos = .op (.ser 0xCD 0xE0 0x01 []) := by decide

/-- V4. -/
theorem test_clear_storage_reply_bad :
    (did (.clearStorageReply 0xE0 0x02 0x00) (session 0 .idle)).fw.fwErr = 0x10 := by decide

theorem test_clear_storage_reply_boot :
    (did (.clearStorageReply 0xE0 0x02 0x01) { session 0 .idle with
      regs := { Operands.reset with fwBoot := true } }).pos = .op (.resetForBootRequest 0xE1) := by decide

/-- `BOOT`; the answer is ignored. -/
theorem test_reset_for_boot_request :
    (did (.resetForBootRequest 0xE1) { running .idle with env := { start.env with ackQ := [.fault] } }).env.trace =
      [.w [0xCD, 0xE1, 0x01, 0x00, 0x00, 0xD7, 0xAC] .fault] := by decide

/-- `RST`. -/
theorem test_reset_mcu_request :
    (did (.resetMcuRequest 0xE3) { running .idle with env := { start.env with ackQ := [.ok] } }).env.trace =
      [.w [0xCD, 0xE3, 0x01, 0x00, 0x00, 0x3A, 0xC4] .ok] ∧
    (did (.resetMcuRequest 0xE3) (running .idle)).pos = .finish := by decide

/-! ## Witnesses

For every statement with hypotheses, a concrete state and operands that meet them, at the boundary values of its clauses. -/

/-- A host that makes the given moves. -/
def withInputs (q : List HostMove) (s : State) : State := { s with env := { s.env with inputs := q } }

/-- The response size an exchange expects. -/
def expecting (n : Half) (s : State) : State := { s with seq := { s.seq with xRsize := n } }

/-- A sleep that is over. -/
def slept0 (n : Nap) (attempt : BitVec 4) (f : FwState) : State :=
  { running (.sleeping n) with
    seq := { Sequencer.reset with attempt := attempt }
    fw := { Tracker.reset with fwState := f } }

/-- The erase reply `EOK` and the chunk reply `A2`. -/
def frameEok : Bytes := [0xDC, 0xE0, 0x02, 0x00, 0x01, 0x01, 0x5A, 0x23]
def frameA2 : Bytes := [0xDC, 0xE2, 0x02, 0x00, 0x02, 0x00, 0x02, 0x19, 0xDC]

/-- The session of chunk 2, about to send its frame. -/
def sendingChunk : State :=
  { session 2 .send with
    seq := { Sequencer.reset with
      rstate := .send
      txbuf := requestFrame vectorParams 0xE2 (chunkPayload 4 2 (currentChunk (session 2 .send)))
      txlen := 31
      xRsize := 9
      xTimeout := 5 } }

theorem witness_StepRunsTheDecodedInstruction :
    { start with cmd := some 2 }.cmd = some 2 ∧
    (Quiet (running (.op (.resetMcuRequest 0xE3))) ∧
      (running (.op (.resetMcuRequest 0xE3))).pos = .op (.resetMcuRequest 0xE3)) ∧
    (Quiet (running .check) ∧ (running .check).pos = .check) ∧
    ((withInputs [.pass] start).cmd = none ∧ (withInputs [.pass] start).env.inputs = .pass :: []) ∧
    ((withInputs [.cmd 2] start).cmd = none ∧ (withInputs [.cmd 2] start).env.inputs = .cmd 2 :: [] ∧
      start.busy = false) ∧
    ((withInputs [.cmd 6] (running .send)).cmd = none ∧
      (withInputs [.cmd 6] (running .send)).env.inputs = .cmd 6 :: [] ∧ (running .send).busy = true) := by decide

theorem witness_PlacedWordIsRunNext :
    decodeTableWord 8 0x2 = some .read ∧ decodeTableWord 40 0xCD00010000 = some (.clearStorageRequest 0) ∧
    decodeTableWord 40 0xDC00000000 = some (.decodeResponse [0xDC, 0, 0, 0, 0, 0, 0]) := by decide

theorem witness_DecodeEncodeAgree :
    (Instr.reserved8ToF 7).wf = true ∧ (Instr.ser 0 0 0 []).wf = true ∧
    (Instr.decodeResponse [0xDC, 0, 0, 0, 0]).wf = true ∧ (Instr.fwChunkRequest 0xE2 4 1 [0]).wf = true ∧
    (Instr.clearStorageReply 0xE0 0x02 0x01).wf = true := by decide

theorem witness_DecodeEncodeAgree_longest :
    (Instr.ser 0xCD 0 1 (List.replicate 65535 0)).wf = true ∧
    (Instr.fwChunkRequest 0xE2 4 1 (List.replicate 65531 0)).wf = true := by
  simp only [Instr.wf, payloadFits, chunkFits, List.length_replicate]; decide

theorem witness_EncodeDecodeAgree :
    decode .cmd4 [0x0F] = .ok (.reserved8ToF 7) ∧
    decode (.frame .response) [0xDC, 0, 0, 0, 0] = .ok (.decodeResponse [0xDC, 0, 0, 0, 0]) := by decide

theorem witness_NopEndsAtOnce : start.busy = false ∧ start.pos = .idle := by decide

theorem witness_OpenReportsTheTransportAnswer : Quiet start ∧ start.busy = false := by decide

theorem witness_ReadIssuesAnEmptyRequest : start.busy = false := by decide

/-- An idle engine with `VWIDTH <- w`. -/
def withWidth (w : Byte) : State := { start with regs := { Operands.reset with vwidth := w } }

/-- The widths where the clauses meet: 1 and 8, 0 and 9. -/
theorem witness_WriteValuePacksOrViolates :
    ((withWidth 1).busy = false ∧ 1 ≤ (withWidth 1).regs.vwidth.toNat ∧ (withWidth 1).regs.vwidth.toNat ≤ 8) ∧
    ((withWidth 8).busy = false ∧ 1 ≤ (withWidth 8).regs.vwidth.toNat ∧ (withWidth 8).regs.vwidth.toNat ≤ 8) ∧
    ((withWidth 0).busy = false ∧ (withWidth 0).regs.vwidth.toNat = 0) ∧
    ((withWidth 9).busy = false ∧ 8 < (withWidth 9).regs.vwidth.toNat) := by decide

theorem witness_WriteBytesIssuesTheBuffer : { start with regs := { Operands.reset with plen := 0xFFFF } }.busy = false := by
  decide

theorem witness_ReservedCodesViolate :
    start.busy = false ∧ start.pos = .idle ∧ (Instr.reserved7 = .reserved7 ∨ ∃ x, Instr.reserved7 = .reserved8ToF x) ∧
    (Instr.reserved8ToF 7 = .reserved7 ∨ ∃ x, Instr.reserved8ToF 7 = .reserved8ToF x) :=
  ⟨rfl, rfl, .inl rfl, .inr ⟨7, rfl⟩⟩

theorem witness_ProgressTakeClearsTheOffer :
    (session 1 (.hold .advance)).busy = true ∧ start.busy = false ∧ start.pos = .idle := by decide

theorem witness_FwUpdateStartsASession :
    { start with fw := { Tracker.reset with fwState := .aborted, fwErr := 0x10 } }.busy = false := by decide

theorem witness_BusyEngineDiscardsCommands :
    (running .send).busy = true ∧ cmdCode .read ≠ none ∧ Instr.read ≠ .progressTake := by decide

/-- An idle engine whose host writes `w` next. -/
def hostWriting (w : RegWrite) : State := withInputs [.write w] start

/-- The discard, a write of each register, `BUS_ADDR` one bit too wide, and bytes at the last addresses of `PBUF` and of the image and
one beyond. -/
theorem witness_HostWritesPayloadBytes :
    ((withInputs [.write (.pbuf 0 [1])] (running .send)).cmd = none ∧
      (withInputs [.write (.pbuf 0 [1])] (running .send)).env.inputs = .write (.pbuf 0 [1]) :: [] ∧
      (withInputs [.write (.pbuf 0 [1])] (running .send)).busy = true) ∧
    (∀ w, (hostWriting w).cmd = none ∧ (hostWriting w).env.inputs = .write w :: [] ∧ (hostWriting w).busy = false) ∧
    (0x80 % 2 ^ start.params.addrW = 0 ∧ 0xFF % 2 ^ start.params.addrW = 0x7F) ∧
    (Memory.wf start.regs.pbuf = true ∧ 65533 + ([1, 2] : Bytes).length ≤ start.params.payloadMax ∧
      start.params.payloadMax < 65534 + ([1, 2] : Bytes).length) ∧
    (Memory.wf start.img = true ∧ 0xFFFFFFFE + ([1, 2] : Bytes).length ≤ 2 ^ 32 ∧
      2 ^ 32 < 0xFFFFFFFF + ([1, 2] : Bytes).length) :=
  ⟨by decide, fun _ => ⟨rfl, rfl, rfl⟩, by decide, by decide, by decide⟩

theorem witness_OrdinaryCommandsEnd :
    { start with cmd := some 2 }.cmd = some 2 ∧ start.env.inputs = [] ∧ start.busy = false ∧ start.pos = .idle ∧
    resting start.fw.fwState = true ∧ (2 : BitVec 4) ≠ 5 ∧ (2 : BitVec 4) ≠ 6 := by decide

/-- The empty payload and the longest; the three operations that wait for an exchange. -/
theorem witness_SerLoadsTheTransmitBuffer :
    (([] : Bytes).length ≤ 65535 ∧ (List.replicate 65535 (0 : Byte)).length ≤ 65535) ∧
    ((slept0 .backoff 0 .erasing).fw.fwState = .erasing ∧ (8 : Half) = BitVec.ofNat 16 (start.params.size 1)) ∧
    ((session 1 .idle).fw.fwState = .streaming ∧ (9 : Half) = BitVec.ofNat 16 (start.params.size 2) ∧
      (5 : Word32) = (session 1 .idle).regs.chunkTimeoutMs) ∧
    (start.fw.fwState ≠ .erasing ∧ start.fw.fwState ≠ .streaming) := by
  rw [List.length_replicate]; decide

/-- A payload of another length than `D_PLEN`, one longer than a `PAYLOAD_MAX` of 10, and one that is accepted. -/
theorem witness_EncodeRequestChecksThenSerializes :
    (([0x12, 0x34] : Bytes).length ≠ { Operands.reset with dPlen := 1 }.dPlen.toNat) ∧
    ({ vectorParams with payloadMax := 10, chunkSize := 6 }.payloadMax < (List.replicate 11 (0 : Byte)).length) ∧
    (([0x12, 0x34] : Bytes).length = { Operands.reset with dPlen := 2 }.dPlen.toNat ∧
      ([0x12, 0x34] : Bytes).length ≤ start.params.payloadMax ∧ start.fw.fwState ≠ .erasing ∧
      start.fw.fwState ≠ .streaming) := by decide

theorem witness_DecoderRecoversSerializedFrames :
    vectorParams.size ([] : Bytes).length ≤ 65535 ∧ vectorParams.size (List.replicate 65528 (0 : Byte)).length ≤ 65535 := by
  rw [List.length_replicate]; decide

theorem witness_AcceptedBytesAreASerializedFrame :
    decodeResponse vectorParams frameG 9 = some ⟨0x0A, 0x02, 2, [0xFE, 0x0C]⟩ := by decide

/-- The first byte and the last trailer byte. -/
theorem witness_DefaultChecksumCatchesAnyByteChange :
    vectorParams.trailer = .crc16Xmodem ∧
    decodeResponse vectorParams frameG 9 = some ⟨0x0A, 0x02, 2, [0xFE, 0x0C]⟩ ∧ 0 < frameG.length ∧
    frameG[0]? ≠ some 0xCD ∧ 8 < frameG.length ∧ frameG[8]? ≠ some 0xA7 := by decide

theorem witness_RejectedResponseLeavesNoTrace :
    ([0xCD, 0x0A] : Bytes).head? ≠ some 0xDC ∧ frameG.length ≠ (expecting 8 start).seq.xRsize.toNat ∧
    decodeResponse start.params [] (expecting 9 start).seq.xRsize = none := by decide

theorem witness_AcceptedResponseIsDelivered :
    (decodeResponse start.params frameG (expecting 9 start).seq.xRsize = some ⟨0x0A, 0x02, 2, [0xFE, 0x0C]⟩ ∧
      resting (expecting 9 start).fw.fwState = true) ∧
    (decodeResponse start.params frameEok (expecting 8 (slept0 .backoff 0 .erasing)).seq.xRsize =
        some ⟨0xE0, 0x02, 1, [0x01]⟩ ∧
      (expecting 8 (slept0 .backoff 0 .erasing)).fw.fwState = .erasing ∧
      (frameEok.drop 5).take (1 : Half).toNat = [0x01]) ∧
    (decodeResponse start.params frameA2 (expecting 9 (session 1 .check)).seq.xRsize =
        some ⟨0xE2, 0x02, 2, [0x00, 0x02]⟩ ∧
      (expecting 9 (session 1 .check)).fw.fwState = .streaming ∧
      (frameA2.drop 5).take (2 : Half).toNat = [0x00, 0x02]) := by decide

theorem witness_UnsignedViewIsExact :
    ([0xFF, 0, 0, 0, 0, 0, 0, 0] : Bytes).length ≤ 8 ∧ 1 ≤ ([0x80] : Bytes).length ∧
    (([] : Bytes).length = 0 ∨ 8 < ([] : Bytes).length) ∧
    (([0, 0, 0, 0, 0, 0, 0, 0, 0] : Bytes).length = 0 ∨ 8 < ([0, 0, 0, 0, 0, 0, 0, 0, 0] : Bytes).length) := by decide

theorem witness_SignedViewIsExact :
    ([] : Bytes).length ≤ 7 ∧ ([0, 0, 0, 0, 0, 0, 0] : Bytes).length ≤ 7 ∧ (0x80 : Byte).msb = true := by decide

theorem witness_SendThenDelayThenRead :
    (Quiet (running .send) ∧ (running .send).pos = .send) ∧
    (Quiet (running (.sleeping (.wait .ok))) ∧ (running (.sleeping (.wait .ok))).seq.timer = 0) ∧
    (Quiet (running (.sleeping (.wait .fault))) ∧ (running (.sleeping (.wait .fault))).seq.timer = 0) := by decide

/-- With a queued answer of bytes, and with a queued fault. -/
theorem witness_ReadFillsTheReceiveBuffer :
    Quiet (running .recv) ∧ (running .recv).pos = .recv ∧
    nextRead 9 { running .recv with env := { start.env with readQ := [.bytes frameG] } } = .bytes frameG ∧
    nextRead 9 { running .recv with env := { start.env with readQ := [.fault] } } = .fault := by decide

/-- The first tick and the last of an 800 ms settle delay. -/
theorem witness_SleepLastsExactlyItsTicks :
    Quiet (running (.startSleep .settle)) ∧ (running (.startSleep .settle)).pos = .startSleep .settle ∧
    0 ≤ (napMs .settle (running (.startSleep .settle))).toNat ∧
    800 ≤ (napMs .settle (running (.startSleep .settle))).toNat := by decide

theorem witness_ExhaustionGoesToTheCaller :
    (Quiet (slept0 .backoff 8 .idle) ∧ (slept0 .backoff 8 .idle).pos = .sleeping .backoff ∧
      (slept0 .backoff 8 .idle).seq.timer = 0 ∧ (slept0 .backoff 8 .idle).seq.attempt.toNat < 9) ∧
    (Quiet (slept0 .backoff 9 .done) ∧ (slept0 .backoff 9 .done).seq.attempt.toNat = 9 ∧
      resting (slept0 .backoff 9 .done).fw.fwState = true) ∧
    (Quiet (slept0 .backoff 9 .erasing) ∧ (slept0 .backoff 9 .erasing).fw.fwState = .erasing) ∧
    (Quiet (slept0 .backoff 9 .streaming) ∧ (slept0 .backoff 9 .streaming).fw.fwState = .streaming) := by decide

theorem witness_SequencerRefinesTheExecuteLoop :
    (Quiet (running .send) ∧ (running .send).pos = .send ∧ (running .send).seq.attempt.toNat ≤ 9) ∧
    { running .send with seq := { Sequencer.reset with attempt := 9 } }.seq.attempt.toNat ≤ 9 := by decide

theorem witness_ExchangeIsBounded :
    Quiet (running .send) ∧ (running .send).pos = .send ∧ (running .send).seq.attempt = 0 := by decide

/-- A frame with the wrong start marker against an empty answer. -/
theorem witness_RejectedBytesAreInvisible :
    Quiet (expecting 9 (running .recv)) ∧ (expecting 9 (running .recv)).pos = .recv ∧
    { start.env with readQ := [.bytes [0xCD]] }.readQ = ReadAns.bytes [0xCD] :: [] ∧
    cutAns 9 (.bytes [0xCD]) = .bytes [0xCD] ∧ decodeResponse vectorParams [0xCD] 9 = none ∧
    cutAns 9 (.bytes []) = .bytes [] ∧ decodeResponse vectorParams [] 9 = none := by decide

theorem witness_EraseRequestBeginsItsExchange : (slept0 .backoff 0 .erasing).fw.fwState = .erasing := rfl

theorem witness_ChunkRequestBeginsItsExchange :
    chunkPayload 4 2 [0xAA] = [(4 : Half).extractLsb' 8 8, (4 : Half).extractLsb' 0 8, (2 : Half).extractLsb' 8 8,
      (2 : Half).extractLsb' 0 8] ++ [0xAA] ∧ (session 2 .idle).fw.fwState = .streaming := by decide

theorem witness_EraseReplyDecidesTheSession :
    (0x00 : Byte) ≠ start.params.statusOk ∧ (0x01 : Byte) = start.params.statusOk ∧
    { Operands.reset with fwBoot := true }.fwBoot = true ∧ start.regs.fwBoot = false := by decide

theorem witness_SettleDelayFollowsTheBootRequest :
    Quiet (running (.op (.resetForBootRequest 0xE1))) ∧
    (running (.op (.resetForBootRequest 0xE1))).pos = .op (.resetForBootRequest 0xE1) ∧ start.regs.fwBoot = false := by decide

/-- S4's boundary lengths: no chunk, one chunk, `0xFFFE` chunks, one more. -/
theorem witness_StreamingCountsTheChunks :
    Quiet (session 0 .countChunks) ∧ (session 0 .countChunks).pos = .countChunks ∧ chunkCountOf 0 20 = 0 ∧
    chunkCountOf 1 20 = 1 ∧ chunkCountOf 1310680 20 = 0xFFFE ∧ chunkCountOf 1310681 20 = 0xFFFF ∧
    (1310681 : Word32).toNat = 1310681 := by decide

theorem witness_ChunkCountIsTheCeiling : (1 : Nat) ≤ 1 ∧ 40 % 20 = 0 ∧ 41 % 20 ≠ 0 ∧ 0 < 40 := by decide

theorem witness_ChunksPartitionTheImage : (1 : Nat) ≤ 20 ∧ 1 ≤ chunkCountOf 70 20 ∧ (4 : Nat) ≤ chunkCountOf 70 20 := by
  decide

/-- The session's state meets the invariant at a place outside an exchange. -/
theorem session_invariant (k : Half) (p : Pos) (h1 : 1 ≤ k.toNat) (h4 : k.toNat < 4) (hp : p ≠ .idle)
    (hr : rstateAt p = .idle) (hx : inExchange p = false) (hph : phaseAllowed p .streaming = true)
    (ho : ∀ i, p = .op i → OpOperands (session k p) i) (hf : p ≠ .hold .finalize) :
    Invariant (session k p) where
  params_wf := by show vectorParams.wf; decide
  img_wf := rfl
  pbuf_wf := rfl
  addr_fits := by show 0 < 2 ^ 7; decide
  busy_iff := ⟨fun _ => hp, fun _ => rfl⟩
  rstate_eq := hr.symm
  attempt_le := by show (0 : BitVec 4).toNat ≤ 9; decide
  timer_zero := fun h => absurd rfl h
  phase := hph
  op_operands := ho
  carries := fun h => by rw [show (session k p).pos = p from rfl, hx] at h; cases h
  expects := fun h => by rw [show (session k p).pos = p from rfl, hx] at h; cases h
  index_range := fun _ _ => ⟨h1, Nat.le_of_lt h4, by show (4 : Half).toNat ≤ 0xFFFE; decide,
    by show (4 : Half).toNat = chunkCountOf (70 : Word32).toNat 20; decide⟩
  progress_le := fun _ _ => Nat.zero_le _
  progress_range := ⟨Nat.zero_le _, Nat.zero_le _⟩
  valid_held := fun h => by cases h
  hold_advance := fun _ => h4
  hold_sentinel := fun h => absurd h hf
  done_sentinel := fun h => by rcases h with h | h <;> cases h
  final_last := fun h => by cases h
  err_aborted := fun h => absurd rfl h
  progress_fresh := fun _ => rfl

theorem session_load_invariant : Invariant (session 2 .loadChunk) :=
  session_invariant 2 .loadChunk (by decide) (by decide) (by decide) rfl rfl rfl (fun i h => by cases h) (by decide)

/-- Before the reply `r` to chunk 2. -/
theorem session_reply_invariant (r : Half) : Invariant (session 2 (.op (.fwChunkReply 0xE2 0x02 r))) :=
  session_invariant 2 _ (by decide) (by decide) (fun h => by cases h) rfl rfl rfl (fun i h => by cases h; trivial)
    (fun h => by cases h)

/-- A state inside an exchange that meets the invariant. -/
theorem sendingChunk_invariant : Invariant sendingChunk where
  params_wf := by decide
  img_wf := rfl
  pbuf_wf := rfl
  addr_fits := by show 0 < 2 ^ 7; decide
  busy_iff := ⟨fun _ h => (by cases h), fun _ => rfl⟩
  rstate_eq := rfl
  attempt_le := by decide
  timer_zero := fun h => absurd rfl h
  phase := rfl
  op_operands := fun i h => by cases h
  carries := fun _ => ⟨0xE2, chunkPayload 4 2 (currentChunk (session 2 .send)),
    ⟨by decide, fun h => (by cases h), fun _ => ⟨rfl, rfl⟩⟩, by decide⟩
  expects := fun _ => ⟨by decide, rfl⟩
  index_range := by decide
  progress_le := fun _ _ => Nat.zero_le _
  progress_range := by decide
  valid_held := fun h => by cases h
  hold_advance := fun h => by cases h
  hold_sentinel := fun h => by cases h
  done_sentinel := fun h => by rcases h with h | h <;> cases h
  final_last := fun h => by cases h
  err_aborted := fun h => absurd rfl h
  progress_fresh := fun _ => rfl

theorem witness_LoadingAChunkCompletes :
    Invariant (session 2 .loadChunk) ∧ Quiet (session 2 .loadChunk) ∧ (session 2 .loadChunk).pos = .loadChunk :=
  ⟨session_load_invariant, by decide, rfl⟩

theorem witness_SameChunkIsResent :
    (session 2 (.op (.fwChunkReply 0xE2 0x02 2))).fw.chunkIndex ≠ 0xFFFF ∧
    Invariant (session 2 (.op (.fwChunkReply 0xE2 0x02 2))) ∧ Quiet (session 2 (.op (.fwChunkReply 0xE2 0x02 2))) ∧
    (session 2 (.op (.fwChunkReply 0xE2 0x02 2))).pos =
      .op (.fwChunkReply 0xE2 0x02 (session 2 (.op (.fwChunkReply 0xE2 0x02 2))).fw.chunkIndex) :=
  ⟨by decide, session_reply_invariant 2, by decide, rfl⟩

/-- The last chunk but one of 4, with a new progress value and with a repeated one. -/
theorem witness_NextChunkIsAcknowledged :
    (4 : Half) ≠ 0xFFFF ∧ (4 : Half).toNat = (session 3 .idle).fw.chunkIndex.toNat + 1 ∧
    (session 3 .idle).fw.chunkIndex.toNat < (session 3 .idle).fw.chunkCount.toNat ∧
    (75 : BitVec 7) = BitVec.ofNat 7 (3 * 100 / 4) ∧ (75 : BitVec 7) ≠ (session 3 .idle).fw.lastProgress ∧
    (75 : BitVec 7) = { (session 3 .idle).fw with lastProgress := 75 }.lastProgress := by decide

theorem witness_SentinelFinalizes :
    (100 : BitVec 7) = BitVec.ofNat 7
      ((session 4 .idle).fw.chunkIndex.toNat * 100 / (session 4 .idle).fw.chunkCount.toNat) ∧
    (100 : BitVec 7) ≠ (session 4 .idle).fw.lastProgress ∧
    (100 : BitVec 7) = { (session 4 .idle).fw with lastProgress := 100 }.lastProgress := by decide

/-- F4 and F5 at chunk 1, F9 at chunk 4. -/
theorem witness_UninterpretableRequestAborts :
    ((0 : Half) ≠ 0xFFFF ∧ (0 : Half) ≠ (session 1 .idle).fw.chunkIndex ∧
      (0 : Half).toNat ≠ (session 1 .idle).fw.chunkIndex.toNat + 1) ∧
    ((3 : Half) ≠ (session 1 .idle).fw.chunkIndex ∧ (3 : Half).toNat ≠ (session 1 .idle).fw.chunkIndex.toNat + 1) ∧
    ((5 : Half) ≠ (session 4 .idle).fw.chunkIndex ∧
      (session 4 .idle).fw.chunkCount.toNat ≤ (session 4 .idle).fw.chunkIndex.toNat) := by decide

/-- A hold with a value on offer. -/
def holding (a : AfterAck) (c : Option (BitVec 4)) : State :=
  { session 2 (.hold a) with cmd := c, fw := { (session 2 (.hold a)).fw with progressValid := true } }

theorem witness_HoldWaitsForTheHost :
    ((holding .advance none).pos = .hold .advance ∧ (holding .advance none).busy = true ∧
      (holding .advance none).fw.progressValid = true ∧ (holding .advance none).env.inputs = [] ∧
      (holding .advance none).cmd = none) ∧
    ((holding .advance (some 6)).cmd = some 6 ∧ (holding .advance (some 6)).pos = .hold .advance) ∧
    ((holding .finalize (some 6)).cmd = some 6 ∧ (holding .finalize (some 6)).pos = .hold .finalize) := by decide

/-- An idle engine after a session of 4 chunks. -/
def sessionDone : State :=
  { start with fw := { Tracker.reset with
      fwState := .done, chunkCount := 4, chunkIndex := 4, reqId := 0xFFFF, lastProgress := 100, progress := 100 } }

theorem sessionDone_invariant : Invariant sessionDone where
  params_wf := by decide
  img_wf := rfl
  pbuf_wf := rfl
  addr_fits := by decide
  busy_iff := ⟨fun h => (by cases h), fun h => absurd rfl h⟩
  rstate_eq := rfl
  attempt_le := by decide
  timer_zero := fun h => absurd rfl h
  phase := rfl
  op_operands := fun i h => (by cases h)
  carries := fun h => by cases h
  expects := fun h => by cases h
  index_range := fun h => by cases h
  progress_le := fun h => by cases h
  progress_range := by decide
  valid_held := fun h => by cases h
  hold_advance := fun h => by cases h
  hold_sentinel := fun h => by cases h
  done_sentinel := fun _ => rfl
  final_last := fun h => by cases h
  err_aborted := fun h => absurd rfl h
  progress_fresh := fun h => by rcases h with h | h | h <;> cases h

theorem witness_McuResetThenDone :
    Quiet (running (.op (.resetMcuRequest 0xE3))) ∧
    Invariant sessionDone ∧ sessionDone.fw.fwState = .done ∧ step sessionDone = .next sessionDone ∧
    sessionDone.cmd ≠ some 5 ∧ sessionDone.env.inputs.head? ≠ some .reset :=
  ⟨by decide, sessionDone_invariant, rfl, rfl, by decide, by decide⟩

/-- Two re-requests of chunk 2. -/
theorem witness_EndlessResendIsAdmitted :
    Invariant { session 2 .loadChunk with env := { start.env with
      ackQ := List.replicate 2 .ok ++ []
      readQ := List.replicate 2 (.bytes (serialize vectorParams Config.startRecv 0xE2 0x02 (be 2 2))) ++ [] } } ∧
    Quiet (session 2 .loadChunk) ∧ (session 2 .loadChunk).pos = .loadChunk ∧
    be (session 2 .loadChunk).fw.chunkIndex.toNat 2 = be 2 2 :=
  have h := session_load_invariant
  ⟨⟨h.params_wf, h.img_wf, h.pbuf_wf, h.addr_fits, h.busy_iff, h.rstate_eq, h.attempt_le, h.timer_zero, h.phase,
    fun i hi => (by cases hi), h.carries, h.expects, h.index_range, h.progress_le, h.progress_range, h.valid_held,
    h.hold_advance, h.hold_sentinel, h.done_sentinel, h.final_last, h.err_aborted, h.progress_fresh⟩, by decide, rfl, by decide⟩

theorem witness_ResetEndsTheOperation :
    (withInputs [.reset] (running .send)).cmd = none ∧ (withInputs [.reset] (running .send)).env.inputs = .reset :: [] := by
  decide

/-- A step of a session, from a state that meets the invariant. -/
theorem witness_StepKeepsTheInvariant :
    Invariant sendingChunk ∧ step sendingChunk = .next (sendRequest sendingChunk) :=
  ⟨sendingChunk_invariant, rfl⟩

theorem witness_EngineNeverStops : Invariant sendingChunk := sendingChunk_invariant

theorem witness_InstructionsLeaveTheOutsideAlone : exec .read start = .next (did .read start) := rfl

/-- A step that changes `FW_STATE`: the fifth id for a chunk of four aborts. -/
theorem witness_FwStateFollowsTheTable :
    Invariant (session 2 (.op (.fwChunkReply 0xE2 0x02 5))) ∧
    (step (session 2 (.op (.fwChunkReply 0xE2 0x02 5))) =
      .next (did (.fwChunkReply 0xE2 0x02 5) (session 2 (.op (.fwChunkReply 0xE2 0x02 5))))) ∧
    (session 2 (.op (.fwChunkReply 0xE2 0x02 5))).env.inputs.head? ≠ some .reset ∧
    (did (.fwChunkReply 0xE2 0x02 5) (session 2 (.op (.fwChunkReply 0xE2 0x02 5)))).fw.fwState = .aborted :=
  ⟨session_reply_invariant 5, rfl, by decide, by decide⟩

/-- The next id, with its progress value surfaced. -/
theorem witness_ChunkIndexOnlyAdvancesByOne :
    Invariant (session 2 (.op (.fwChunkReply 0xE2 0x02 3))) ∧
    (step (session 2 (.op (.fwChunkReply 0xE2 0x02 3))) =
      .next (did (.fwChunkReply 0xE2 0x02 3) (session 2 (.op (.fwChunkReply 0xE2 0x02 3))))) ∧
    (session 2 (.op (.fwChunkReply 0xE2 0x02 3))).fw.fwState = .streaming ∧
    (did (.fwChunkReply 0xE2 0x02 3) (session 2 (.op (.fwChunkReply 0xE2 0x02 3)))).fw.fwState = .streaming ∧
    (session 2 (.op (.fwChunkReply 0xE2 0x02 3))).pos ≠ .countChunks :=
  ⟨session_reply_invariant 3, rfl, rfl, by decide, by decide⟩

theorem witness_ProgressStrictlyIncreases :
    Invariant (session 2 (.op (.fwChunkReply 0xE2 0x02 3))) ∧
    (step (session 2 (.op (.fwChunkReply 0xE2 0x02 3))) =
      .next (did (.fwChunkReply 0xE2 0x02 3) (session 2 (.op (.fwChunkReply 0xE2 0x02 3))))) ∧
    (did (.fwChunkReply 0xE2 0x02 3) (session 2 (.op (.fwChunkReply 0xE2 0x02 3)))).env.trace =
      (session 2 (.op (.fwChunkReply 0xE2 0x02 3))).env.trace ++ [.p 50] :=
  ⟨session_reply_invariant 3, rfl, by decide⟩

theorem witness_StartMarkersSeparateTheDirections :
    Invariant sendingChunk ∧ step sendingChunk = .next (sendRequest sendingChunk) ∧
    (sendRequest sendingChunk).env.trace =
      sendingChunk.env.trace ++ [.w (toSend sendingChunk) (nextAck sendingChunk)] ∧
    ([0xCD] : Bytes).head? ≠ some 0xDC :=
  ⟨sendingChunk_invariant, rfl, rfl, by decide⟩

theorem witness_ChunkFramesCarryTheCurrentChunk :
    Invariant sendingChunk ∧ step sendingChunk = .next (sendRequest sendingChunk) ∧ sendingChunk.fw.fwState = .streaming ∧
    (sendRequest sendingChunk).env.trace =
      sendingChunk.env.trace ++ [.w (toSend sendingChunk) (nextAck sendingChunk)] :=
  ⟨sendingChunk_invariant, rfl, rfl, rfl⟩

end Sys2Proof.Tests
end

section
/-! The step with a code in `CMD` and with a move of the host; a step with neither is `step_quiet`. -/

namespace Sys2Proof.Machine

/-- A code in `CMD` is acted on before anything else (log entry 7). -/
theorem step_of_cmd {s : State} {c : BitVec 4} (hcmd : s.cmd = some c) : step s = exec (decodeCmd c) (dropCmd s) := by
  simp [step, machineStep, hcmd]

/-- The host's move is made over the state it is taken from (log entry 5). -/
theorem step_of_move {s : State} {m : HostMove} {q : List HostMove} (hcmd : s.cmd = none)
    (hmove : s.env.inputs = m :: q) : step s = hostMove m { s with env := { s.env with inputs := q } } := by
  simp [step, machineStep, hcmd, hmove, dropInput]

theorem engineStep_op {s : State} {i : Instr} (hpos : s.pos = .op i) : engineStep s = exec i s := by
  simp [engineStep, hpos]

theorem engineStep_check {s : State} (hpos : s.pos = .check) :
    engineStep s = exec (.decodeResponse (received s)) s := by
  simp [engineStep, hpos]

/-- Settles O1: each clause is the lemma about what gives the step its turn, a code in `CMD`, a silent host or a move. -/
theorem stepRunsTheDecodedInstruction : Obligations.StepRunsTheDecodedInstruction := by
  refine ⟨fun s c hcmd => ?command, fun s i hquiet hpos => ?operation, fun s hquiet hpos => ?decoding,
    fun s hquiet => ?engine, fun s q hcmd hpass => ?pass, fun s c q hcmd hwrite => ?strobe⟩
  case command => exact step_of_cmd hcmd
  case operation => rw [step_quiet hquiet, engineStep_op hpos]
  case decoding => rw [step_quiet hquiet, engineStep_check hpos]
  case engine => exact step_quiet hquiet
  case pass => exact step_of_move hcmd hpass
  case strobe => exact step_of_move hcmd hwrite

end Sys2Proof.Machine
end

section
/-! What a byte of a memory reads as after a byte sequence was written. -/

namespace Sys2Proof.Machine

/-- A byte sequence leaves the bytes below and above it alone. -/
theorem Memory.read_writeSeq_outside {m : Memory} {a x : Nat} {b : Bytes} (hm : Memory.wf m = true)
    (hx : x < a ∨ a + b.length ≤ x) : Memory.read (Memory.writeSeq m a b) x = Memory.read m x := by
  induction b generalizing m a with
  | nil => rfl
  | cons c b ih =>
    rw [List.length_cons] at hx
    calc Memory.read (Memory.writeSeq (Memory.write m a c) (a + 1) b) x
        = Memory.read (Memory.write m a c) x := ih (Memory.write_wf hm) (by omega)
      _ = Memory.read m x := Memory.read_write_other (by omega) hm

/-- A byte sequence reads back in order. -/
theorem Memory.read_writeSeq_inside {m : Memory} {a j : Nat} {b : Bytes} (hm : Memory.wf m = true)
    (hj : j < b.length) : some (Memory.read (Memory.writeSeq m a b) (a + j)) = b[j]? := by
  induction b generalizing m a j with
  | nil => simp at hj
  | cons c b ih =>
    have hm' : Memory.wf (Memory.write m a c) = true := Memory.write_wf hm
    cases j with
    | zero =>
      have hfirst : Memory.read (Memory.writeSeq (Memory.write m a c) (a + 1) b) a = c := by
        rw [Memory.read_writeSeq_outside hm' (by omega), Memory.read_write_same hm]
      simpa [Memory.writeSeq] using hfirst
    | succ j =>
      have hrest := ih (a := a + 1) hm' (Nat.lt_of_succ_lt_succ hj)
      simpa [Memory.writeSeq, Nat.add_assoc, Nat.add_comm 1 j] using hrest

end Sys2Proof.Machine
end

section
/-! The step that makes a host write (R26): discarded, carried out, or stopped at an address that does not exist. -/

namespace Sys2Proof.Machine

theorem writeInRange_pbuf {P : Params} {a : Nat} {b : Bytes} :
    writeInRange P (.pbuf a b) = true ↔ a + b.length ≤ P.payloadMax :=
  decide_eq_true_iff

theorem writeInRange_img {P : Params} {a : Nat} {b : Bytes} :
    writeInRange P (.img a b) = true ↔ a + b.length ≤ 2 ^ 32 :=
  decide_eq_true_iff

section
variable {s : State} {w : RegWrite} {q : List HostMove}

/-- While `BUSY = 1` the write is discarded, wherever it goes (D10). -/
theorem step_write_of_busy (hcmd : s.cmd = none) (hmove : s.env.inputs = .write w :: q) (hbusy : s.busy = true) :
    step s = .next { s with env := { s.env with inputs := q } } := by
  rw [step_of_move hcmd hmove]
  simp [hostMove, hostWrite, hbusy]

/-- A write the engine accepts changes the operand registers and the image as `writeReg` and `writeImg` say. -/
theorem step_write_of_inRange (hcmd : s.cmd = none) (hmove : s.env.inputs = .write w :: q) (hfree : s.busy = false)
    (hrange : writeInRange s.params w = true) :
    step s = .next { s with
      env := { s.env with inputs := q }
      regs := writeReg s.params w s.regs
      img := writeImg w s.img } := by
  rw [step_of_move hcmd hmove]
  simp [hostMove, hostWrite, hfree, hrange]

/-- A write to an address that does not exist stops the run (log entry 19). -/
theorem step_write_of_outOfRange (hcmd : s.cmd = none) (hmove : s.env.inputs = .write w :: q) (hfree : s.busy = false)
    (hrange : ¬ writeInRange s.params w = true) : step s = .fault .hostAddress := by
  rw [step_of_move hcmd hmove]
  simp [hostMove, hostWrite, hfree, hrange]

end

/-- Settles O15: the write is discarded while the engine is busy. Else a register takes the value by `writeReg`, and bytes
are one `Memory.writeSeq`, whose reads `Memory.read_writeSeq_inside` and `Memory.read_writeSeq_outside` give. -/
theorem hostWritesPayloadBytes : Obligations.HostWritesPayloadBytes := by
  rintro s u w q hcmd hmove rfl
  refine ⟨step_write_of_busy hcmd hmove, fun hfree => ?_⟩
  have hdone := step_write_of_inRange hcmd hmove hfree
  have hstop := step_write_of_outOfRange hcmd hmove hfree
  refine ⟨?dOpcode, ?dDir, ?dPlen, ?dRsize, ?timeoutMs, ?value, ?vwidth, ?plen, ?busAddr, ?imgLen, ?fwBoot,
    ?eraseTimeoutMs, ?chunkTimeoutMs, ?pbuf, ?img⟩
  case pbuf =>
    rintro a b rfl
    rw [writeInRange_pbuf] at hdone hstop
    exact ⟨fun hout => hstop (Nat.not_le.mpr hout), fun hwf hin =>
      ⟨_, hdone hin, fun _ => Memory.read_writeSeq_inside hwf, fun _ => Memory.read_writeSeq_outside hwf⟩⟩
  case img =>
    rintro a b rfl
    rw [writeInRange_img] at hdone hstop
    exact ⟨fun hout => hstop (Nat.not_le.mpr hout), fun hwf hin =>
      ⟨_, hdone hin, fun _ => Memory.read_writeSeq_inside hwf, fun _ => Memory.read_writeSeq_outside hwf⟩⟩
  -- Each remaining clause is one register's equation of `writeReg`.
  all_goals
    rintro v rfl
    exact hdone rfl

end Sys2Proof.Machine
end

section
/-! The frames a step writes to the bus: which place in the pseudocode writes one, and which one. Every other action of
the engine or of the host leaves the list of written frames as it is. -/

namespace Sys2Proof.Machine

/-- The bytes of a `T_WRITE` event. -/
def Event.written : Event → Option Bytes
  | .w b _ => some b
  | .r _ _ => none
  | .o _ _ => none
  | .s _ _ => none
  | .p _ => none
  | .e _ _ => none

/-- The frames written in a run, oldest first: the arguments of its `T_WRITE` calls, whatever they answered. -/
def framesIn (es : List Event) : List Bytes := es.filterMap Event.written

@[simp] theorem framesIn_nil : framesIn [] = [] := rfl
@[simp] theorem framesIn_cons (e : Event) (es : List Event) :
    framesIn (e :: es) = e.written.toList ++ framesIn es := by
  cases h : e.written <;> simp [framesIn, h]
@[simp] theorem framesIn_append (es es' : List Event) : framesIn (es ++ es') = framesIn es ++ framesIn es' :=
  List.filterMap_append

@[simp] theorem Event.written_w (b : Bytes) (r : Ack) : (Event.w b r).written = some b := rfl
@[simp] theorem Event.written_r (n : Nat) (a : ReadAns) : (Event.r n a).written = none := rfl
@[simp] theorem Event.written_o (a : Nat) (r : Ack) : (Event.o a r).written = none := rfl
@[simp] theorem Event.written_s (k : SleepKind) (ms : Word32) : (Event.s k ms).written = none := rfl
@[simp] theorem Event.written_p (v : BitVec 7) : (Event.p v).written = none := rfl
@[simp] theorem Event.written_e (k : ResKind) (c : Byte) : (Event.e k c).written = none := rfl

/-! ## The shared operations that write no frame -/

section
variable (s : State)

@[simp] theorem framesIn_returnFrame (f : Frame) :
    framesIn (returnFrame f s).env.trace = framesIn s.env.trace := by
  obtain ⟨-, h⟩ | ⟨-, -, h⟩ | ⟨st, q, -, -, h⟩ | ⟨-, h⟩ := returnFrame_cases f s <;> simp [h, deliver]

@[simp] theorem framesIn_returnNone : framesIn (returnNone s).env.trace = framesIn s.env.trace := by
  obtain ⟨-, h⟩ | ⟨-, h⟩ | ⟨-, h⟩ := returnNone_cases s <;> simp [h, endUnavailable]

@[simp] theorem framesIn_afterBackoff : framesIn (afterBackoff s).env.trace = framesIn s.env.trace := by
  obtain ⟨-, h⟩ | ⟨-, h⟩ := afterBackoff_cases s <;> simp [h]

@[simp] theorem framesIn_proceed (a : AfterAck) : framesIn (proceed a s).env.trace = framesIn s.env.trace := by
  cases a <;> rfl

@[simp] theorem framesIn_acknowledge (a : AfterAck) :
    framesIn (acknowledge a s).env.trace = framesIn s.env.trace := by
  obtain ⟨-, h⟩ | ⟨-, h⟩ := acknowledge_cases a s <;> simp [h]

@[simp] theorem framesIn_countChunks : framesIn (countChunks s).env.trace = framesIn s.env.trace := by
  obtain ⟨-, h⟩ | ⟨-, h⟩ | ⟨-, -, h⟩ := countChunks_cases s <;> simp [h]

@[simp] theorem framesIn_openCall : framesIn (openCall s).env.trace = framesIn s.env.trace := by
  cases h : nextAck s <;> simp [openCall, endUnavailable, h]

@[simp] theorem framesIn_endSleep (n : Nap) : framesIn (endSleep n s).env.trace = framesIn s.env.trace := by
  cases n with
  | wait sent => cases sent <;> simp [endSleep]
  | backoff => simp [endSleep]
  | settle => simp [endSleep, enterStreaming]

@[simp] theorem framesIn_sleepStep (n : Nap) : framesIn (sleepStep n s).env.trace = framesIn s.env.trace := by
  unfold sleepStep
  split <;> simp

@[simp] theorem framesIn_holdStep (a : AfterAck) : framesIn (holdStep a s).env.trace = framesIn s.env.trace := by
  unfold holdStep
  split <;> simp

end

/-! ## The step -/

/-- The frame an instruction writes in its own step: the two requests sent outside the retry sequencer (R204, R221). -/
def ownFrame (P : Params) : Instr → Option Bytes
  | .resetForBootRequest c => some (requestFrame P c [])
  | .resetMcuRequest c => some (requestFrame P c [])
  | _ => none

/-- The frame the engine's step writes from its place in the pseudocode: also the frame of an attempt (R175). -/
def frameDue (s : State) : Option Bytes :=
  match s.pos with
  | .send => some (toSend s)
  | .op i => ownFrame s.params i
  | _ => none

/-- If the result `r` of an action in `s` is a next state, the frame `new`, if any, is what was written on the way there. -/
def Writes (s : State) (new : Option Bytes) (r : Result) : Prop :=
  ∀ t, r = .next t → framesIn t.env.trace = framesIn s.env.trace ++ new.toList

theorem writes_next {s t : State} {new : Option Bytes}
    (h : framesIn t.env.trace = framesIn s.env.trace ++ new.toList) : Writes s new (.next t) := by
  rintro _ ⟨⟩
  exact h

theorem writes_fault (s : State) (new : Option Bytes) (f : Fault) : Writes s new (.fault f) := by
  rintro _ ⟨⟩

/-- A command writes no frame at its issue if what it runs then writes none. -/
theorem writes_ifIdle {s : State} {run : State → State}
    (h : framesIn (run (issue s)).env.trace = framesIn s.env.trace) : Writes s none (ifIdle s run) := by
  obtain ⟨-, heq⟩ | ⟨-, heq⟩ := ifIdle_cases s run
  · rw [heq]; exact writes_next (by simp)
  · rw [heq]; exact writes_next (by simp [h])

theorem writes_execFwChunkReply (o d : Byte) (r : Half) (s : State) : Writes s none (execFwChunkReply o d r s) := by
  obtain ⟨-, h⟩ | ⟨-, -, h⟩ | ⟨-, -, -, h⟩ | ⟨-, -, h⟩ := execFwChunkReply_cases o d r s <;>
    rw [h] <;> exact writes_next (by simp)

theorem writes_loadChunk (s : State) : Writes s none (loadChunk s) := by
  unfold loadChunk
  split
  · exact writes_next (by simp)
  · exact writes_fault _ _ _

/-- An instruction writes the frame `ownFrame` names and no other. -/
theorem writes_exec (i : Instr) (s : State) : Writes s (ownFrame s.params i) (exec i s) := by
  cases i with
  | nop => exact writes_ifIdle (by simp)
  | openBus => exact writes_ifIdle (by simp)
  | read => exact writes_ifIdle (by simp)
  | writeValue =>
    show Writes s none (execWriteValue s)
    unfold execWriteValue
    split <;> exact writes_ifIdle (by simp [raiseViolation])
  | writeBytes => exact writes_ifIdle (by simp)
  | fwUpdate =>
    show Writes s none (execFwUpdate s)
    exact writes_ifIdle (by simp)
  | progressTake =>
    show Writes s none (execProgressTake s)
    unfold execProgressTake
    split <;> exact writes_next (by simp)
  | reserved7 => exact writes_ifIdle (by simp [raiseViolation])
  | reserved8ToF x => exact writes_ifIdle (by simp [raiseViolation])
  | ser st o d p => exact writes_next (by simp [ownFrame])
  | encodeRequest o p =>
    show Writes s none (execEncodeRequest o p s)
    unfold execEncodeRequest
    split <;> exact writes_next (by simp [raiseViolation])
  | decodeResponse b =>
    show Writes s none (execDecodeResponse b s)
    unfold execDecodeResponse
    split <;> exact writes_next (by simp)
  | fwChunkRequest c count id data => exact writes_next (by simp [ownFrame])
  | fwChunkReply o d id => exact writes_execFwChunkReply o d id s
  | clearStorageRequest c => exact writes_next (by simp [ownFrame])
  | clearStorageReply o d status =>
    show Writes s none (execClearStorageReply o d status s)
    unfold execClearStorageReply
    split
    · exact writes_next (by simp)
    · split <;> exact writes_next (by simp [enterStreaming])
  | resetForBootRequest c => exact writes_next (by simp [ownFrame])
  | resetMcuRequest c => exact writes_next (by simp [ownFrame])

/-- A step of the engine writes the frame due at its place and no other. -/
theorem writes_engineStep (s : State) : Writes s (frameDue s) (engineStep s) := by
  unfold engineStep frameDue
  cases s.pos with
  | idle => exact writes_next (by simp)
  | openCall => exact writes_next (by simp)
  | op i => exact writes_exec i s
  | send => exact writes_next (by simp [sendRequest])
  | startSleep n => exact writes_next (by simp)
  | sleeping n => exact writes_next (by simp)
  | recv => exact writes_next (by simp [recvResponse])
  | check => exact writes_exec (.decodeResponse (received s)) s
  | countChunks => exact writes_next (by simp)
  | loadChunk => exact writes_loadChunk s
  | hold a => exact writes_next (by simp)
  | finish => exact writes_next (by simp [finishSession])

/-- A host write reaches the operand registers and the image only. -/
theorem writes_hostWrite (w : RegWrite) (s : State) : Writes s none (hostWrite w s) := by
  unfold hostWrite
  split
  · exact writes_next (by simp)
  · split
    · exact writes_next (by simp)
    · exact writes_fault _ _ _

/-- No host command is one of the two requests sent outside the retry sequencer. -/
theorem ownFrame_decodeCmd (P : Params) (c : BitVec 4) : ownFrame P (decodeCmd c) = none := by
  unfold decodeCmd
  split <;> rfl

/-- A step writes no frame, or it writes the one due at the engine's place. -/
theorem step_writes (s : State) : Writes s none (step s) ∨ Writes s (frameDue s) (step s) := by
  unfold step
  obtain ⟨c, -, h⟩ | ⟨-, -, h⟩ | ⟨m, q, -, -, h⟩ := step_cases s <;> rw [h]
  · have hcmd := writes_exec (decodeCmd c) (dropCmd s)
    rw [ownFrame_decodeCmd] at hcmd
    exact .inl hcmd
  · exact .inr (writes_engineStep s)
  · cases m with
    | pass => exact .inr (writes_engineStep (dropInput s))
    | write w => exact .inl (writes_hostWrite w (dropInput s))
    | cmd c => exact .inl (writes_next (by simp))
    | reset => exact .inl (writes_next (by simp [resetEngine]))

/-- A frame that a step writes was due at the engine's place. -/
theorem frameDue_of_step_write {s t : State} {b : Bytes} {r : Ack} (hstep : step s = .next t)
    (htrace : t.env.trace = s.env.trace ++ [.w b r]) : frameDue s = some b := by
  have hframes : framesIn t.env.trace = framesIn s.env.trace ++ [b] := by simp [htrace]
  obtain hnone | hdue := step_writes s
  · simpa [hframes] using hnone t hstep
  · have hlist : framesIn s.env.trace ++ (frameDue s).toList = framesIn s.env.trace ++ [b] :=
      (hdue t hstep).symm.trans hframes
    exact Option.toList_eq_singleton_iff.mp (List.append_cancel_left hlist)

end Sys2Proof.Machine
end

section
/-! The start markers of the two directions (R92): `0xCD` in every frame written, `0xDC` in every frame accepted. -/

namespace Sys2Proof.Machine

/-- Start and direction marker of a request frame (R92, R94). -/
theorem requestFrame_markers (P : Params) (o : Byte) (p : Bytes) :
    (requestFrame P o p).head? = some 0xCD ∧ (requestFrame P o p)[2]? = some 0x01 := by
  simp [requestFrame, serialize, Laws.FixedBits.frameBody_header, Config.startSent, Config.dirReq]

/-- What the engine is about to write is a request frame: an attempt's by the invariant, the other two by their own row. -/
theorem frameDue_isRequest {s : State} {b : Bytes} (hinv : Invariant s) (hdue : frameDue s = some b) :
    ∃ o p, b = requestFrame s.params o p := by
  unfold frameDue at hdue
  split at hdue
  next hpos =>
    obtain ⟨o, p, -, hframe⟩ := hinv.carries (by rw [hpos]; rfl)
    exact ⟨o, p, (Option.some.inj hdue).symm.trans hframe⟩
  next i _ =>
    unfold ownFrame at hdue
    split at hdue
    next c _ => exact ⟨c, [], (Option.some.inj hdue).symm⟩
    next c _ => exact ⟨c, [], (Option.some.inj hdue).symm⟩
    next => contradiction
  next => contradiction

/-- The start byte of a header is the first byte of the buffer. -/
theorem head?_of_splitHeader {b rest : Bytes} {h : Header} (hsplit : splitHeader b = some (h, rest)) :
    b.head? = some h.start := by
  unfold splitHeader at hsplit
  split at hsplit
  · cases hsplit; rfl
  · contradiction

theorem checkedFrame_of_start_ne {P : Params} {b rest : Bytes} {h : Header} (hstart : h.start ≠ Config.startRecv) :
    checkedFrame P b h rest = none := if_pos hstart

/-- The decoder accepts no buffer that does not start with `0xDC`, the empty one included (R92, R151). -/
theorem decodeResponse_of_head_ne {P : Params} {b : Bytes} {e : Half} (hhead : b.head? ≠ some Config.startRecv) :
    decodeResponse P b e = none := by
  unfold decodeResponse
  cases hsplit : splitHeader b with
  | none => simp
  | some x =>
    obtain ⟨h, rest⟩ := x
    have hstart : h.start ≠ Config.startRecv := fun heq => hhead (heq ▸ head?_of_splitHeader hsplit)
    simp [checkedFrame_of_start_ne hstart]

/-- Settles O59: a frame written was due at the engine's place, and what is due there is a request frame; the decoder's
first test of the header turns away every other start byte. -/
theorem startMarkersSeparateTheDirections : Obligations.StartMarkersSeparateTheDirections := by
  refine ⟨fun s t b r hinv hstep htrace => ?sent, fun P b e hhead => ?received⟩
  case sent =>
    obtain ⟨o, p, rfl⟩ := frameDue_isRequest hinv (frameDue_of_step_write hstep htrace)
    exact requestFrame_markers s.params o p
  case received => exact decodeResponse_of_head_ne hhead

end Sys2Proof.Machine
end

section
/-! The chunks of an image (R135, R207): the chunk count is the ceiling of the image length over the chunk size, and the
chunks lie side by side, each ending at a multiple of the chunk size or at the end of the image. -/

namespace Sys2Proof.Machine

@[simp] theorem chunkData_length (img : Memory) (L C n k : Nat) :
    (chunkData img L C n k).length = chunkLen L C n k :=
  Memory.readSeq_length _ _ _

@[simp] theorem chunkStart_succ (C k : Nat) : chunkStart C (k + 1) = k * C := rfl

section
variable {L C : Nat} (hC : 1 ≤ C)
include hC

/-- R207 as a ceiling: `n` chunks are enough exactly when they reach the end of the image. -/
theorem chunkCountOf_le_iff {n : Nat} : chunkCountOf L C ≤ n ↔ L ≤ n * C := by
  unfold chunkCountOf
  by_cases hrest : L % C = 0
  · obtain ⟨q, rfl⟩ := Nat.dvd_of_mod_eq_zero hrest
    simp [Nat.mul_comm n C, Nat.mul_div_cancel_left q hC, Nat.mul_le_mul_left_iff hC]
  · have hne : L ≠ n * C := by rintro rfl; exact hrest (Nat.mul_mod_left n C)
    calc L / C + (if L % C ≠ 0 then 1 else 0) ≤ n ↔ L / C < n := by rw [if_pos hrest]; exact Nat.succ_le_iff
      _ ↔ L < n * C := Nat.div_lt_iff_lt_mul hC
      _ ↔ L ≤ n * C := ⟨Nat.le_of_lt, fun hle => Nat.lt_of_le_of_ne hle hne⟩

/-- The chunks together reach the end of the image. -/
theorem le_chunkCountOf_mul : L ≤ chunkCountOf L C * C := (chunkCountOf_le_iff hC).mp le_rfl

/-- Fewer chunks than the count end before the end of the image. -/
theorem mul_lt_of_lt_chunkCountOf {k : Nat} (hk : k < chunkCountOf L C) : k * C < L :=
  Nat.not_le.mp fun hle => Nat.not_le.mpr hk ((chunkCountOf_le_iff hC).mpr hle)

/-- Where chunk `k + 1` ends: a full chunk further on, or at the end of the image. -/
theorem chunkEnd_eq_min {k : Nat} (hk : k < chunkCountOf L C) :
    k * C + chunkLen L C (chunkCountOf L C) (k + 1) = min ((k + 1) * C) L := by
  unfold chunkLen
  obtain hlt | hlast := Nat.lt_or_eq_of_le (Nat.succ_le_of_lt hk)
  · have hin := mul_lt_of_lt_chunkCountOf hC hlt
    rw [if_pos hlt, ← Nat.succ_mul, min_eq_left hin.le]
  · have hin := mul_lt_of_lt_chunkCountOf hC hk
    have hend := le_chunkCountOf_mul (L := L) hC
    rw [← hlast] at hend ⊢
    rw [if_neg (Nat.lt_irrefl _), min_eq_right hend, Nat.succ_sub_one, Nat.add_sub_cancel' hin.le]

/-- The first `m` chunks joined together are the image up to the end of chunk `m`. -/
theorem flatten_chunks_eq_readSeq (img : Memory) {m : Nat} (hm : m ≤ chunkCountOf L C) :
    ((List.range m).map (fun j => chunkData img L C (chunkCountOf L C) (j + 1))).flatten =
      Memory.readSeq img 0 (min (m * C) L) := by
  induction m with
  | zero => simp [Memory.readSeq]
  | succ m ih =>
    have hstart : min (m * C) L = m * C := min_eq_left (mul_lt_of_lt_chunkCountOf hC hm).le
    calc ((List.range (m + 1)).map (fun j => chunkData img L C (chunkCountOf L C) (j + 1))).flatten
        = Memory.readSeq img 0 (m * C) ++ chunkData img L C (chunkCountOf L C) (m + 1) := by
          simp [List.range_succ, ih (Nat.le_of_succ_le hm), hstart]
      _ = Memory.readSeq img 0 (m * C + chunkLen L C (chunkCountOf L C) (m + 1)) := by
          simpa [chunkData] using Memory.readSeq_append img 0 (m * C) (chunkLen L C (chunkCountOf L C) (m + 1))
      _ = Memory.readSeq img 0 (min ((m + 1) * C) L) := by rw [chunkEnd_eq_min hC hm]

/-- A chunk has 1 to `C` bytes, and they lie in the image. -/
theorem chunkLen_bounds {k : Nat} (h1 : 1 ≤ k) (hk : k ≤ chunkCountOf L C) :
    1 ≤ chunkLen L C (chunkCountOf L C) k ∧ chunkLen L C (chunkCountOf L C) k ≤ C ∧
      chunkStart C k + chunkLen L C (chunkCountOf L C) k ≤ L := by
  obtain ⟨k, rfl⟩ := Nat.exists_eq_add_of_le' h1
  have hend := chunkEnd_eq_min hC hk
  have hin := mul_lt_of_lt_chunkCountOf hC hk
  rw [Nat.succ_mul] at hend
  rw [chunkStart_succ]
  omega

end

/-- Settles O40: all the chunks joined together end where the image ends. -/
theorem chunksPartitionTheImage : Obligations.ChunksPartitionTheImage := by
  refine fun img L C hC => ⟨?joined, fun k h1 hk => ?bounds⟩
  case joined => rw [flatten_chunks_eq_readSeq hC img le_rfl, min_eq_right (le_chunkCountOf_mul hC)]
  case bounds => simpa using chunkLen_bounds hC h1 hk

end Sys2Proof.Machine
end

section
/-! Big-endian byte sequences (R15): `be` and `ube` are inverse. -/

namespace Sys2Proof.Machine

theorem ube_lt (s : Bytes) : ube s < 2 ^ (8 * s.length) := by
  induction s with
  | nil => simp [ube]
  | cons b s ih =>
    calc b.toNat * 2 ^ (8 * s.length) + ube s
        < b.toNat * 2 ^ (8 * s.length) + 2 ^ (8 * s.length) := by omega
      _ = (b.toNat + 1) * 2 ^ (8 * s.length) := (Nat.succ_mul _ _).symm
      _ ≤ 2 ^ 8 * 2 ^ (8 * s.length) := Nat.mul_le_mul_right _ b.isLt
      _ = 2 ^ (8 * (b :: s).length) := by rw [← Nat.pow_add, List.length_cons]; congr 1; omega

/-- The bits of `v` above the `8 w` that `be` keeps are dropped (R15). -/
theorem ube_be (v w : Nat) : ube (be v w) = v % 2 ^ (8 * w) := by
  induction w with
  | zero => simp [be, ube, Nat.mod_one]
  | succ w ih =>
    calc ube (be v (w + 1)) = v / 2 ^ (8 * w) % 2 ^ 8 * 2 ^ (8 * w) + v % 2 ^ (8 * w) := by
          simp [be, ube, ih, Nat.shiftRight_eq_div_pow]
      _ = v % (2 ^ (8 * w) * 2 ^ 8) := by rw [Nat.mod_mul]; ring
      _ = v % 2 ^ (8 * (w + 1)) := by rw [← Nat.pow_add, Nat.mul_succ]

/-- The value without the low bytes is the first byte. -/
theorem ube_cons_div (b : Byte) (s : Bytes) : ube (b :: s) / 2 ^ (8 * s.length) = b.toNat := by
  rw [ube, Nat.mul_comm, Nat.mul_add_div (Nat.two_pow_pos _), Nat.div_eq_of_lt (ube_lt s), Nat.add_zero]

/-- A byte sequence is told by its length and its value. -/
theorem ube_injective_of_length {s t : Bytes} (hlen : s.length = t.length) (hval : ube s = ube t) : s = t := by
  induction s generalizing t with
  | nil => exact (List.length_eq_zero_iff.mp hlen.symm).symm
  | cons b s ih =>
    obtain _ | ⟨c, t⟩ := t
    · contradiction
    · have hlen' : s.length = t.length := Nat.succ.inj hlen
      have hhigh : b.toNat = c.toNat := by rw [← ube_cons_div b s, ← ube_cons_div c t, hval, hlen']
      have hlow : ube s = ube t := by rw [ube, ube, hhigh, hlen'] at hval; exact Nat.add_left_cancel hval
      rw [BitVec.eq_of_toNat_eq hhigh, ih hlen' hlow]

theorem be_ube (s : Bytes) : be (ube s) s.length = s :=
  ube_injective_of_length (be_length _ _) (by rw [ube_be, Nat.mod_eq_of_lt (ube_lt s)])

/-- `PACK` is `be` for the widths it can supply, 1 to 8 (R133, D6). -/
theorem pack_eq (v : Word64) (w : Byte) :
    pack v w = if 1 ≤ w.toNat ∧ w.toNat ≤ 8 then some (be v.toNat w.toNat) else none := by
  unfold pack
  by_cases hw : 1 ≤ w.toNat ∧ w.toNat ≤ 8
  · rw [if_pos hw, if_neg (by omega)]
  · rw [if_neg hw, if_pos (by omega)]

/-- Settles O26: the value of `be` by induction on the width; the way back since length and value tell a sequence. -/
theorem bigEndianPackingIsExact : Obligations.BigEndianPackingIsExact :=
  ⟨fun v w => ⟨be_length v w, ube_be v w⟩, fun s => ⟨be_ube s, ube_lt s⟩, pack_eq⟩

end Sys2Proof.Machine
end

section
/-! A serialized frame taken apart again (R130, R151): its header, its body, its trailer and its payload. -/

namespace Sys2Proof.Machine

section
variable (P : Params) (s o d : Byte) (p : Bytes)

theorem serialize_eq_header_append :
    serialize P s o d p = headerBytes s o d p.length ++ (p ++ chk P (frameBody s o d p)) := by
  simp [serialize, frameBody]

@[simp] theorem take_serialize : (serialize P s o d p).take (Config.headerSize + p.length) = frameBody s o d p :=
  List.take_left' (frameBody_length s o d p)

@[simp] theorem drop_serialize : (serialize P s o d p).drop (Config.headerSize + p.length) = chk P (frameBody s o d p) :=
  List.drop_left' (frameBody_length s o d p)

/-- The payload stands at offset 5 (R90). -/
theorem payload_serialize : ((serialize P s o d p).drop 5).take p.length = p := by
  rw [serialize_eq_header_append, List.drop_left' (by simp [headerBytes]), List.take_left' rfl]

theorem splitHeader_serialize (hp : p.length ≤ 65535) : splitHeader (serialize P s o d p) =
    some (⟨s, o, d, p.length⟩, p ++ chk P (frameBody s o d p)) := by
  rw [serialize_eq_header_append, splitHeader_headerBytes _ _ _ _ _ hp]

/-- The decoder's tests of start marker, length and trailer hold, and the payload is what stands before the trailer
(R151, R154). -/
theorem checkedFrame_serialize :
    checkedFrame P (serialize P Config.startRecv o d p) ⟨Config.startRecv, o, d, p.length⟩
        (p ++ chk P (frameBody Config.startRecv o d p)) =
      some ⟨o, d, BitVec.ofNat 16 p.length, p⟩ := by
  simp [checkedFrame]

end

/-- Settles O19: the frame has the expected length, its header splits off, and every test behind the header holds. -/
theorem decoderRecoversSerializedFrames : Obligations.DecoderRecoversSerializedFrames := by
  refine fun P o d p hsize => ⟨?response, payload_serialize P _ o _ p⟩
  case response =>
    have hp : p.length ≤ 65535 := le_trans (by unfold Params.size; omega) hsize
    have hlen : (BitVec.ofNat 16 (P.size p.length)).toNat = P.size p.length := by
      rw [BitVec.toNat_ofNat, Nat.mod_eq_of_lt (by omega)]
    have hpos : P.size p.length ≠ 0 := by simp [Params.size, Config.headerSize]
    have hmin : ¬ P.size p.length < P.frameMin := by unfold Params.frameMin Params.size; omega
    simp [decodeResponse, splitHeader_serialize P _ o d p hp, checkedFrame_serialize, hlen, hpos, hmin]

end Sys2Proof.Machine
end

section
/-! What a session loads and sends in `Streaming` (R209, R210): by the invariant, a chunk of the image and its request. -/

namespace Sys2Proof.Machine

section
variable {s : State}

/-- In a session the current chunk's addresses are image addresses (R61, R209). -/
theorem Invariant.chunkInImage_of_streaming (hinv : Invariant s) (hfw : s.fw.fwState = .streaming)
    (hpos : s.pos ≠ .countChunks) : chunkInImage s = true := by
  obtain ⟨hfirst, hlast, -, hcount⟩ := hinv.index_range hfw hpos
  obtain ⟨hC, -⟩ := hinv.params_wf
  obtain ⟨-, -, hend⟩ := chunkLen_bounds hC hfirst (hlast.trans_eq hcount)
  rw [chunkInImage, hcount]
  exact decide_eq_true hend

/-- The chunk the invariant speaks of, with the count recomputed from the image. -/
theorem Invariant.currentChunk_eq (hinv : Invariant s) (hfw : s.fw.fwState = .streaming)
    (hpos : s.pos ≠ .countChunks) : currentChunk s =
      chunkData s.img s.regs.imgLen.toNat s.params.chunkSize (imageChunks s) s.fw.chunkIndex.toNat := by
  obtain ⟨-, -, -, hcount⟩ := hinv.index_range hfw hpos
  rw [currentChunk, hcount]

theorem Invariant.streaming_of_loadChunk (hinv : Invariant s) (hpos : s.pos = .loadChunk) :
    s.fw.fwState = .streaming := by
  simpa [hpos, phaseAllowed] using hinv.phase

/-- The two requests sent outside the retry sequencer are not sent in `Streaming` (R204, R221). -/
theorem Invariant.ownFrame_eq_none {i : Instr} (hinv : Invariant s) (hfw : s.fw.fwState = .streaming)
    (hpos : s.pos = .op i) : ownFrame s.params i = none := by
  have hphase := hinv.phase
  rw [hpos, hfw] at hphase
  unfold ownFrame
  split
  · simp [phaseAllowed, opAllowed] at hphase
  · simp [phaseAllowed, opAllowed] at hphase
  · rfl

/-- The frame due in `Streaming` is the current chunk's request (R210, R225(e)). -/
theorem Invariant.frameDue_streaming {b : Bytes} (hinv : Invariant s) (hfw : s.fw.fwState = .streaming)
    (hdue : frameDue s = some b) : s.pos = .send ∧ b = requestFrame s.params s.params.opcFwChunk
      (chunkPayload s.fw.chunkCount s.fw.chunkIndex (currentChunk s)) := by
  unfold frameDue at hdue
  split at hdue
  next hpos =>
    obtain ⟨o, p, ⟨-, -, hchunk⟩, hframe⟩ := hinv.carries (by rw [hpos]; rfl)
    obtain ⟨rfl, rfl⟩ := hchunk hfw
    exact ⟨hpos, (Option.some.inj hdue).symm.trans hframe⟩
  next i hpos =>
    rw [hinv.ownFrame_eq_none hfw hpos] at hdue
    contradiction
  next => contradiction

end

theorem engineStep_loadChunk {s : State} (hpos : s.pos = .loadChunk) : engineStep s = loadChunk s := by
  simp [engineStep, hpos]

/-- Settles O41: by the invariant the index is a chunk of the image, so the range check of R61 lets the chunk pass. -/
theorem loadingAChunkCompletes : Obligations.LoadingAChunkCompletes := by
  intro s hinv hpos
  have hin : chunkInImage s = true :=
    hinv.chunkInImage_of_streaming (hinv.streaming_of_loadChunk hpos) (by rw [hpos]; exact nofun)
  rw [engineStep_loadChunk hpos, loadChunk, if_pos hin]
  rfl

/-- Settles O60: a frame written was due at the engine's place, and in `Streaming` that is an attempt's frame, which the
invariant says carries the current chunk. -/
theorem chunkFramesCarryTheCurrentChunk : Obligations.ChunkFramesCarryTheCurrentChunk := by
  intro s t b r hinv hstep hfw htrace
  obtain ⟨hpos, rfl⟩ := hinv.frameDue_streaming hfw (frameDue_of_step_write hstep htrace)
  rw [hinv.currentChunk_eq hfw (by rw [hpos]; exact nofun)]

end Sys2Proof.Machine
end

section
/-! The frame encoder's rows: `SER` with the arguments of who waits for the exchange, and the check of
`ENCODE_REQUEST`. -/

namespace Sys2Proof.Machine

section
variable {s : State}

theorem exchangeArgs_of_erasing (hfw : s.fw.fwState = .erasing) :
    exchangeSize s = BitVec.ofNat 16 (s.params.size 1) ∧ exchangeTimeout s = s.regs.eraseTimeoutMs := by
  simpa [hfw] using exchangeArgs_cases s

theorem exchangeArgs_of_streaming (hfw : s.fw.fwState = .streaming) :
    exchangeSize s = BitVec.ofNat 16 (s.params.size 2) ∧ exchangeTimeout s = s.regs.chunkTimeoutMs := by
  simpa [hfw] using exchangeArgs_cases s

theorem exchangeArgs_of_command (herase : s.fw.fwState ≠ .erasing) (hstream : s.fw.fwState ≠ .streaming) :
    exchangeSize s = s.regs.dRsize ∧ exchangeTimeout s = s.regs.timeoutMs := by
  simpa [herase, hstream] using exchangeArgs_cases s

end

theorem exec_ser (st o d : Byte) (p : Bytes) (s : State) :
    exec (.ser st o d p) s = .next (loadFrame (serialize s.params st o d p) s) := rfl

/-- The five header bytes with the length split by division (R91, R95). -/
theorem frameBody_eq_header (st o d : Byte) (p : Bytes) :
    frameBody st o d p = [st, o, d, BitVec.ofNat 8 (p.length / 256), BitVec.ofNat 8 p.length] ++ p := by
  rw [Laws.FixedBits.frameBody_header, Nat.shiftRight_eq_div_pow]; rfl

/-- Settles O17: the hypothesis lists who may wait for the exchange, and for each the arguments are those of `EXECUTE`;
the rest is the frame's layout and `loadFrame`. -/
theorem serLoadsTheTransmitBuffer : Obligations.SerLoadsTheTransmitBuffer := by
  intro s st o d p rsize timeout _ hargs
  have hwaits : exchangeSize s = rsize ∧ exchangeTimeout s = timeout := by
    obtain ⟨hfw, rfl, rfl⟩ | ⟨hfw, rfl, rfl⟩ | ⟨herase, hstream, rfl, rfl⟩ := hargs
    · exact exchangeArgs_of_erasing hfw
    · exact exchangeArgs_of_streaming hfw
    · exact exchangeArgs_of_command herase hstream
  obtain ⟨rfl, rfl⟩ := hwaits
  refine ⟨frameBody st o d p, chk s.params (frameBody st o d p), frameBody_eq_header st o d p, rfl, chk_length _ _,
    serialize_length s.params st o d p, ?_⟩
  rw [exec_ser, ← serialize_length s.params st o d p]
  rfl

theorem payloadAccepted_iff {P : Params} {declared : Half} {p : Bytes} :
    payloadAccepted P declared p = true ↔ p.length = declared.toNat ∧ p.length ≤ P.payloadMax :=
  decide_eq_true_iff

section
variable {s : State} {p : Bytes} (o : Byte)

theorem exec_encodeRequest_accepted (h : payloadAccepted s.params s.regs.dPlen p = true) :
    exec (.encodeRequest o p) s = .next (beginExchange o p s) := if_pos h

theorem exec_encodeRequest_rejected (h : ¬ payloadAccepted s.params s.regs.dPlen p = true) :
    exec (.encodeRequest o p) s = .next (raiseViolation .invalidPayloadLength s) := if_neg h

end

/-- Settles O18: a rejected payload raises the violation; an accepted one puts `SER` next, which loads its frame with the
arguments of an ordinary command. -/
theorem encodeRequestChecksThenSerializes : Obligations.EncodeRequestChecksThenSerializes := by
  refine fun s o p => ⟨fun hbad => ?rejected, fun hlen hmax => ?accepted⟩
  case rejected =>
    exact exec_encodeRequest_rejected o (by rw [payloadAccepted_iff]; omega)
  case accepted =>
    refine ⟨_, exec_encodeRequest_accepted o (payloadAccepted_iff.mpr ⟨hlen, hmax⟩), rfl, fun herase hstream => ?_⟩
    obtain ⟨hsize, htimeout⟩ := exchangeArgs_of_command herase hstream
    rw [← hsize, ← htimeout, engineStep_op (beginExchange_pos s o p), exec_ser]
    rfl

end Sys2Proof.Machine
end

section
/-! What the decoder accepts (R151): the tests it makes one by one, and that a buffer which passes them all is the
serialized frame of its header and payload. -/

namespace Sys2Proof.Machine

/-- A header that splits off is the five bytes that stand before the rest (R91). -/
theorem eq_headerBytes_append_of_splitHeader {b rest : Bytes} {h : Header} (hsplit : splitHeader b = some (h, rest)) :
    b = headerBytes h.start h.opcode h.dir h.len ++ rest ∧ h.len < 2 ^ 16 := by
  unfold splitHeader at hsplit
  split at hsplit
  next s o d l1 l0 _ =>
    cases hsplit
    exact ⟨by simp [headerBytes, show be (ube [l1, l0]) 2 = [l1, l0] from be_ube [l1, l0]], ube_lt [l1, l0]⟩
  next => contradiction

theorem checkedFrame_eq_some_iff {P : Params} {b rest : Bytes} {h : Header} {f : Frame} :
    checkedFrame P b h rest = some f ↔
      h.start = Config.startRecv ∧ P.size h.len = b.length ∧
        chk P (b.take (Config.headerSize + h.len)) = b.drop (Config.headerSize + h.len) ∧
        f = ⟨h.opcode, h.dir, BitVec.ofNat 16 h.len, rest.take h.len⟩ := by
  unfold checkedFrame
  split_ifs with hstart hsize hchk
  · simp [hstart]
  · simp [hsize]
  · simp [hchk]
  · simp [not_not.mp hstart, not_not.mp hsize, not_not.mp hchk, eq_comm]

theorem decodeResponse_of_length_ne {P : Params} {b : Bytes} {e : Half} (hlen : b.length ≠ e.toNat) :
    decodeResponse P b e = none := by
  simp [decodeResponse, hlen]

/-- The length tests and the header of an accepted buffer. -/
theorem checkedFrame_of_decodeResponse {P : Params} {b : Bytes} {e : Half} {f : Frame}
    (hacc : decodeResponse P b e = some f) :
    b.length = e.toNat ∧ ∃ h rest, splitHeader b = some (h, rest) ∧ checkedFrame P b h rest = some f := by
  have hlen : b.length = e.toNat := by
    by_contra hne
    rw [decodeResponse_of_length_ne hne] at hacc
    contradiction
  unfold decodeResponse at hacc
  split_ifs at hacc
  cases hsplit : splitHeader b with
  | none => rw [hsplit] at hacc; contradiction
  | some x => rw [hsplit] at hacc; exact ⟨hlen, x.1, x.2, rfl, hacc⟩

section
variable {P : Params} {b : Bytes} {e : Half} {f : Frame} (hacc : decodeResponse P b e = some f)
include hacc

theorem length_of_decodeResponse : b.length = e.toNat := (checkedFrame_of_decodeResponse hacc).1

/-- An accepted buffer is a serialized response frame: behind the header the length field leaves exactly the payload and
the trailer, and the trailer is the checksum of what stands before it. -/
theorem serialize_of_decodeResponse :
    b = serialize P Config.startRecv f.opcode f.dir f.payload ∧ f.len.toNat = f.payload.length := by
  obtain ⟨-, h, rest, hsplit, hchecked⟩ := checkedFrame_of_decodeResponse hacc
  obtain ⟨hb, hfield⟩ := eq_headerBytes_append_of_splitHeader hsplit
  obtain ⟨hstart, hsize, hchk, rfl⟩ := checkedFrame_eq_some_iff.mp hchecked
  have hheader : (headerBytes h.start h.opcode h.dir h.len).length = Config.headerSize := by
    simp [headerBytes, Config.headerSize]
  have hpayload : (rest.take h.len).length = h.len := by
    have hrest : b.length = Config.headerSize + rest.length := by rw [hb, List.length_append, hheader]
    rw [List.length_take, min_eq_left]
    unfold Params.size at hsize
    omega
  have hbody : b.take (Config.headerSize + h.len) =
      frameBody Config.startRecv h.opcode h.dir (rest.take h.len) := by
    rw [hb, ← hheader, List.take_length_add_append, frameBody, hpayload, hstart]
  refine ⟨?_, by simpa [hpayload] using hfield⟩
  calc b = b.take (Config.headerSize + h.len) ++ b.drop (Config.headerSize + h.len) := (List.take_append_drop _ b).symm
    _ = serialize P Config.startRecv h.opcode h.dir (rest.take h.len) := by rw [← hchk, hbody]; rfl

/-- The trailer of an accepted buffer is its last bytes, and the checksum of all the others (R97). -/
theorem chk_of_decodeResponse :
    chk P (b.take (e.toNat - P.trailerLen)) = b.drop (e.toNat - P.trailerLen) := by
  have hframe := (serialize_of_decodeResponse hacc).1
  have hbody : e.toNat - P.trailerLen = Config.headerSize + f.payload.length := by
    rw [← length_of_decodeResponse hacc, hframe, serialize_length, Params.size, Nat.add_sub_cancel]
  rw [hbody, hframe, take_serialize, drop_serialize]

end

/-- Settles O20: an accepted buffer is a serialized frame, so its length is that of the frame. -/
theorem acceptedBytesAreASerializedFrame : Obligations.AcceptedBytesAreASerializedFrame := by
  intro P b e f hacc
  obtain ⟨hframe, hfield⟩ := serialize_of_decodeResponse hacc
  refine ⟨hframe, hfield, length_of_decodeResponse hacc, ?_⟩
  rw [← serialize_length P Config.startRecv f.opcode f.dir, ← hframe]

end Sys2Proof.Machine
end

section
/-! The default checksum (R97): every step of its register can be undone, so that two sequences which differ in one byte
leave it different. -/

namespace Sys2Proof.Machine

/-- The bit shifted out is kept in bit 0, since bit 0 of the polynomial is set. -/
theorem crcBit_getLsbD_zero (c : BitVec 16) : (crcBit c).getLsbD 0 = c.msb := by
  unfold crcBit
  cases hmsb : c.msb <;> simp

/-- The top bit and the others, shifted, tell a word. -/
theorem eq_of_msb_eq_of_shiftLeft_one_eq {c c' : BitVec 16} (hmsb : c.msb = c'.msb) (hlow : c <<< 1 = c' <<< 1) :
    c = c' := by
  simp only [BitVec.msb_eq_decide, decide_eq_decide] at hmsb
  have hlow' := congrArg BitVec.toNat hlow
  simp only [BitVec.toNat_shiftLeft, Nat.shiftLeft_eq] at hlow'
  apply BitVec.eq_of_toNat_eq
  omega

theorem crcBit_injective : Function.Injective crcBit := by
  intro c c' heq
  have hmsb : c.msb = c'.msb := by rw [← crcBit_getLsbD_zero, ← crcBit_getLsbD_zero, heq]
  refine eq_of_msb_eq_of_shiftLeft_one_eq hmsb ?_
  unfold crcBit at heq
  rw [← hmsb] at heq
  split at heq
  · exact (BitVec.xor_left_inj _).mp heq
  · exact heq

theorem crcBits_injective (n : Nat) : Function.Injective (crcBits n) := by
  induction n with
  | zero => exact fun _ _ heq => heq
  | succ n ih => exact ih.comp crcBit_injective

/-- The bytes that follow do not make two register values the same. -/
theorem crcFrom_injective (s : Bytes) : Function.Injective fun c => crcFrom c s := by
  induction s with
  | nil => exact fun _ _ heq => heq
  | cons b s ih => exact fun c c' heq => (BitVec.xor_left_inj _).mp (crcBits_injective 8 (ih heq))

/-- Nor does a register value make two bytes the same. -/
theorem crcFrom_cons_inj {c : BitVec 16} {b b' : Byte} {s : Bytes}
    (heq : crcFrom c (b :: s) = crcFrom c (b' :: s)) : b = b' := by
  have hshift : b.setWidth 16 <<< 8 = b'.setWidth 16 <<< 8 :=
    (BitVec.xor_right_inj c).mp (crcBits_injective 8 (crcFrom_injective s heq))
  have hnat := congrArg BitVec.toNat hshift
  simp only [BitVec.toNat_shiftLeft, BitVec.toNat_setWidth, Nat.shiftLeft_eq] at hnat
  apply BitVec.eq_of_toNat_eq
  omega

/-- One byte that is changed changes the register after the sequence, wherever it stands. -/
theorem getElem?_of_crcFrom_set_eq {c : BitVec 16} {s : Bytes} {j : Nat} {x : Byte} (hj : j < s.length)
    (heq : crcFrom c (s.set j x) = crcFrom c s) : s[j]? = some x := by
  induction s generalizing c j with
  | nil => contradiction
  | cons b s ih =>
    cases j with
    | zero => exact congrArg some (crcFrom_cons_inj heq).symm
    | succ j => exact ih (Nat.lt_of_succ_lt_succ hj) heq

theorem crc16_eq_of_chk_eq {P : Params} {s t : Bytes} (hP : P.trailer = .crc16Xmodem) (heq : chk P s = chk P t) :
    crc16 s = crc16 t := by
  simp only [chk, hP] at heq
  have hval := congrArg ube heq
  rw [ube_be, ube_be, Nat.mod_eq_of_lt (crc16 s).isLt, Nat.mod_eq_of_lt (crc16 t).isLt] at hval
  exact BitVec.eq_of_toNat_eq hval

/-- Settles O21: were the changed buffer accepted too, then a change before the trailer would leave the trailer as it was
and so the CRC register, and a change in the trailer would leave the bytes that determine it. -/
theorem defaultChecksumCatchesAnyByteChange : Obligations.DefaultChecksumCatchesAnyByteChange := by
  intro P b e f j x hP hacc hj hne
  rw [Option.eq_none_iff_forall_ne_some]
  intro f' hacc'
  apply hne
  have htrailer := chk_of_decodeResponse hacc
  have htrailer' := chk_of_decodeResponse hacc'
  obtain hbody | hbehind := Nat.lt_or_ge j (e.toNat - P.trailerLen)
  · rw [List.drop_set_of_lt hbody, List.take_set, ← htrailer] at htrailer'
    have hlt : j < (b.take (e.toNat - P.trailerLen)).length := by rw [List.length_take]; exact lt_min hbody hj
    rw [← List.getElem?_take_of_lt hbody]
    exact getElem?_of_crcFrom_set_eq hlt (crc16_eq_of_chk_eq hP htrailer')
  · rw [List.take_set_of_le hbehind] at htrailer'
    have hsame : b = b.set j x := by
      rw [← List.take_append_drop (e.toNat - P.trailerLen) (b.set j x), List.take_set_of_le hbehind, ← htrailer',
        htrailer, List.take_append_drop]
    rw [hsame]
    exact List.getElem?_set_self hj

end Sys2Proof.Machine
end

section
/-! The integer views of a payload (R155, R156): at most 8 bytes fit 64 bits, and the sign bit of a payload is the top
bit of its first byte. -/

namespace Sys2Proof.Machine

theorem viewsDefined_iff {p : Bytes} : viewsDefined p = true ↔ 1 ≤ p.length ∧ p.length ≤ 8 := decide_eq_true_iff

theorem toNat_unsignedView {p : Bytes} (hp : p.length ≤ 8) : (unsignedView p).toNat = ube p := by
  have hfits : ube p < 2 ^ 64 := lt_of_lt_of_le (ube_lt p) (Nat.pow_le_pow_right Nat.two_pos (by omega))
  exact Nat.mod_eq_of_lt hfits

/-- Settles O24: the value fits the view; which of the two cases a frame is in is the flag. -/
theorem unsignedViewIsExact : Obligations.UnsignedViewIsExact := by
  refine ⟨fun p hp => ⟨toNat_unsignedView hp, ube_lt p⟩,
    fun f r => ⟨fun hlow hhigh => ?defined, fun hout => ?undefined⟩⟩
  case defined =>
    have hdef : viewsDefined f.payload = true := viewsDefined_iff.mpr ⟨hlow, hhigh⟩
    simp [frameResults, hdef, toNat_unsignedView hhigh]
  case undefined =>
    have hundef : viewsDefined f.payload = false := by
      rw [← Bool.not_eq_true, viewsDefined_iff]
      omega
    simp [frameResults, hundef]

section
variable (b : Byte) (q : Bytes)

/-- The first bit of a byte sequence is the top bit of its value. -/
theorem msb_iff_le_ube : b.msb = true ↔ 2 ^ (8 * q.length + 7) ≤ ube (b :: q) := by
  calc b.msb = true ↔ 2 ^ 7 ≤ b.toNat := by rw [BitVec.msb_eq_decide, decide_eq_true_iff]
    _ ↔ 2 ^ 7 ≤ ube (b :: q) / 2 ^ (8 * q.length) := by rw [ube_cons_div]
    _ ↔ 2 ^ (8 * q.length + 7) ≤ ube (b :: q) := by
      rw [Nat.le_div_iff_mul_le (Nat.two_pow_pos _), ← Nat.pow_add, Nat.add_comm 7]

theorem sbe_of_msb (hb : b.msb = true) : sbe (b :: q) = (ube (b :: q) : Int) - 2 ^ (8 * q.length + 8) := if_pos hb

theorem sbe_of_not_msb (hb : b.msb = false) : sbe (b :: q) = ube (b :: q) := by simp [sbe, hb]

/-- The range of two's complement, from that of the unsigned value. -/
theorem sbe_bounds :
    -(2 : Int) ^ (8 * q.length + 7) ≤ sbe (b :: q) ∧ sbe (b :: q) < (2 : Int) ^ (8 * q.length + 7) := by
  have htop := msb_iff_le_ube b q
  have hfull : (2 : Int) ^ (8 * q.length + 8) = 2 * 2 ^ (8 * q.length + 7) := pow_succ' 2 _
  have hlt : (ube (b :: q) : Int) < 2 ^ (8 * q.length + 8) := by exact_mod_cast ube_lt (b :: q)
  cases hb : b.msb with
  | true =>
    have hle : (2 : Int) ^ (8 * q.length + 7) ≤ ube (b :: q) := by exact_mod_cast htop.mp hb
    rw [sbe_of_msb b q hb]
    omega
  | false =>
    have hsmall : (ube (b :: q) : Int) < 2 ^ (8 * q.length + 7) := by
      exact_mod_cast Nat.lt_of_not_le fun hle => by simp [htop.mpr hle] at hb
    rw [sbe_of_not_msb b q hb]
    omega

end

/-- At most 8 bytes have a signed value that fits the view. -/
theorem toInt_signedView (b : Byte) {q : Bytes} (hq : q.length ≤ 7) : (signedView (b :: q)).toInt = sbe (b :: q) := by
  obtain ⟨hlow, hhigh⟩ := sbe_bounds b q
  have hrange : (2 : Int) ^ (8 * q.length + 7) ≤ 2 ^ (64 - 1) := pow_le_pow_right₀ (by norm_num) (by omega)
  exact BitVec.toInt_ofInt_eq_self (by norm_num) (by omega) (by omega)

/-- Settles O25: the value fits the view, and it differs from the unsigned one by `2^(8 |p|)`, which is not 0, exactly
when the first bit is set. -/
theorem signedViewIsExact : Obligations.SignedViewIsExact := by
  intro b q hq
  obtain ⟨hlow, hhigh⟩ := sbe_bounds b q
  refine ⟨toInt_signedView b hq, hlow, hhigh, ⟨fun heq => ?unsigned, sbe_of_not_msb b q⟩, sbe_of_msb b q⟩
  case unsigned =>
    rw [← Bool.not_eq_true]
    intro hb
    have hpos : (0 : Int) < 2 ^ (8 * q.length + 8) := by positivity
    rw [sbe_of_msb b q hb] at heq
    omega

end Sys2Proof.Machine
end

section
/-! The decoder's row in the machine: a rejected buffer fails the attempt (R157), and neither the read before it nor the
decoding leaves anything of it in a register the host can read (D10). -/

namespace Sys2Proof.Machine

theorem exec_decodeResponse_rejected {s : State} {b : Bytes} (hrej : decodeResponse s.params b s.seq.xRsize = none) :
    exec (.decodeResponse b) s = .next (attemptFailed s) := by
  simp [exec, execDecodeResponse, hrej]

theorem exec_decodeResponse_accepted {s : State} {b : Bytes} {f : Frame}
    (hacc : decodeResponse s.params b s.seq.xRsize = some f) :
    exec (.decodeResponse b) s = .next (returnFrame f s) := by
  simp [exec, execDecodeResponse, hacc]

/-- Settles O22: each of the two named tests rejects on its own, and a rejection is a failed attempt. -/
theorem rejectedResponseLeavesNoTrace : Obligations.RejectedResponseLeavesNoTrace := by
  refine fun s b => ⟨?tests, fun hrej => ?only⟩
  case tests =>
    rintro (hhead | hlen)
    · exact decodeResponse_of_head_ne hhead
    · exact decodeResponse_of_length_ne hlen
  case only => exact exec_decodeResponse_rejected hrej

/-- An answer of the transport that gives the decoder nothing to accept: a fault, or bytes it rejects. -/
def ReadRejected (s : State) : Prop :=
  ∀ x, nextRead s.seq.xRsize.toNat s = .bytes x → decodeResponse s.params x s.seq.xRsize = none

theorem nextRead_of_readQ {s : State} {a : ReadAns} {q : List ReadAns} (n : Nat) (hq : s.env.readQ = a :: q) :
    nextRead n s = cutAns n a := by
  simp [nextRead, hq]

theorem dropRead_readQ_of_readQ {s : State} {a : ReadAns} {q : List ReadAns} (hq : s.env.readQ = a :: q) :
    (dropRead s).env.readQ = q := by
  simp [dropRead, hq]

/-! A read fills the receive buffer and leaves the rest of the sequencer's registers alone (R31, R173). -/

@[simp] theorem fillRbuf_attempt (a : ReadAns) (r : Sequencer) : (fillRbuf a r).attempt = r.attempt := by
  cases a <;> rfl
@[simp] theorem fillRbuf_timer (a : ReadAns) (r : Sequencer) : (fillRbuf a r).timer = r.timer := by
  cases a <;> rfl
@[simp] theorem fillRbuf_xRsize (a : ReadAns) (r : Sequencer) : (fillRbuf a r).xRsize = r.xRsize := by
  cases a <;> rfl

theorem engineStep_recv {s : State} (hpos : s.pos = .recv) : engineStep s = .next (recvResponse s) := by
  simp [engineStep, hpos]

/-- After a fault the decoder is run on no byte, else on the answer; both fail (log entry 30). -/
theorem decodeResponse_received_of_readRejected {s : State} (hrej : ReadRejected s) :
    decodeResponse s.params (received (recvResponse s)) s.seq.xRsize = none := by
  have hreceived : received (recvResponse s) = received (tRead s.seq.xRsize.toNat s) := rfl
  rw [hreceived, received_tRead _ s.seq.xRsize.isLt]
  cases hans : nextRead s.seq.xRsize.toNat s with
  | fault => exact decodeResponse_of_head_ne (by simp)
  | bytes x => exact hrej x hans

/-- The read and the decoding of a rejected answer. -/
theorem runFor_two_of_readRejected {s : State} (hquiet : Quiet s) (hpos : s.pos = .recv) (hrej : ReadRejected s) :
    runFor 2 s = .next (attemptFailed (recvResponse s)) := by
  have hread : step s = .next (recvResponse s) := by rw [step_quiet hquiet, engineStep_recv hpos]
  have hquiet' : Quiet (recvResponse s) := by simpa [Quiet, recvResponse] using hquiet
  have hcheck : step (recvResponse s) = .next (attemptFailed (recvResponse s)) := by
    rw [step_quiet hquiet', engineStep_check rfl]
    exact exec_decodeResponse_rejected (by
      simpa [recvResponse] using decodeResponse_received_of_readRejected hrej)
  rw [runFor_succ 1 hread, runFor_succ 0 hcheck, runFor_zero]

theorem hostView_failed_read (s : State) :
    hostView (attemptFailed (recvResponse s)) = { hostView s with rstate := 5 } := by
  simp [hostView, recvResponse, rstateCode]

/-- Settles O33: both runs end in the failed attempt, of which the answer is in the receive buffer and the trace only. -/
theorem rejectedBytesAreInvisible : Obligations.RejectedBytesAreInvisible := by
  intro s a b q hquiet hpos hq ha hb
  set s' : State := { s with env := { s.env with readQ := b :: q } } with hs'
  have hrej : ReadRejected s := fun x hans => ha x (nextRead_of_readQ _ hq ▸ hans)
  have hrej' : ReadRejected s' := fun x hans => hb x (nextRead_of_readQ (s := s') _ rfl ▸ hans)
  refine ⟨_, _, runFor_two_of_readRejected hquiet hpos hrej, runFor_two_of_readRejected hquiet hpos hrej', ?view, rfl,
    ?timer, ?readQ, ?ackQ, hostView_failed_read s⟩
  case view => rw [hostView_failed_read, hostView_failed_read]; rfl
  case timer => simp [recvResponse, hs']
  case readQ => simp [recvResponse, dropRead_readQ_of_readQ hq, dropRead_readQ_of_readQ (s := s') rfl]
  case ackQ => simp [recvResponse, hs']

end Sys2Proof.Machine
end

section
/-! An accepted buffer handed to the exchange's caller (R154, R180, R203, R212). -/

namespace Sys2Proof.Machine

/-- The header fields of a serialized frame by offset, the length field most significant byte first (R91). -/
theorem header_of_serialize (P : Params) (s o d : Byte) {p : Bytes} {n : Half} (hn : n.toNat = p.length) :
    (serialize P s o d p)[1]? = some o ∧ (serialize P s o d p)[2]? = some d ∧
      (serialize P s o d p)[3]? = some (n.extractLsb' 8 8) ∧ (serialize P s o d p)[4]? = some (n.extractLsb' 0 8) := by
  have hhigh : n.extractLsb' 8 8 = BitVec.ofNat 8 (p.length >>> 8) := by rw [← hn]; rfl
  have hlow : n.extractLsb' 0 8 = BitVec.ofNat 8 p.length := by rw [← hn]; rfl
  simp [serialize, Laws.FixedBits.frameBody_header, hhigh, hlow]

/-- Two bytes, most significant first, are the word they spell (R64). -/
theorem ofNat_ube_pair (x y : Byte) : BitVec.ofNat 16 (ube [x, y]) = x ++ y := by
  apply BitVec.eq_of_toNat_eq
  rw [BitVec.toNat_append, ← Nat.shiftLeft_add_eq_or_of_lt y.isLt, Nat.shiftLeft_eq]
  simpa [ube] using Nat.mod_eq_of_lt (ube_lt [x, y])

/-- The payload of an accepted buffer is what the length field counts from offset 5 (R154). -/
theorem payload_of_decodeResponse {P : Params} {b : Bytes} {e : Half} {f : Frame}
    (hacc : decodeResponse P b e = some f) : f.payload = (b.drop 5).take f.len.toNat := by
  obtain ⟨hframe, hfield⟩ := serialize_of_decodeResponse hacc
  conv_rhs => rw [hframe, hfield]
  exact (payload_serialize P _ _ _ _).symm

section
variable {s : State}

theorem caller_of_resting (hrest : resting s.fw.fwState = true) : caller s = .command := by
  obtain ⟨-, hfw⟩ | ⟨-, hfw⟩ | ⟨hcommand, -, -⟩ := caller_cases s
  · rw [hfw] at hrest; contradiction
  · rw [hfw] at hrest; contradiction
  · exact hcommand

theorem returnFrame_of_resting (f : Frame) (hrest : resting s.fw.fwState = true) :
    returnFrame f s = deliver f (setRState .idle s) := by
  simp [returnFrame, caller_of_resting hrest]

theorem returnFrame_of_erasing {f : Frame} {x : Byte} (hfw : s.fw.fwState = .erasing) (hp : f.payload = [x]) :
    returnFrame f s = goto (.op (.clearStorageReply f.opcode f.dir x)) (setRState .idle s) := by
  simp [returnFrame, caller, hfw, hp]

theorem returnFrame_of_streaming {f : Frame} {x y : Byte} (hfw : s.fw.fwState = .streaming) (hp : f.payload = [x, y]) :
    returnFrame f s = goto (.op (.fwChunkReply f.opcode f.dir (x ++ y))) (setRState .idle s) := by
  simp [returnFrame, caller, hfw, hp, ofNat_ube_pair]

end

/-- Settles O23: the fields stand where `SER` puts them, and who waits for the exchange says what becomes of the frame. -/
theorem acceptedResponseIsDelivered : Obligations.AcceptedResponseIsDelivered := by
  intro s b f hacc
  obtain ⟨hframe, hfield⟩ := serialize_of_decodeResponse hacc
  have hpayload := payload_of_decodeResponse hacc
  refine ⟨?fields, fun hrest => ?command, fun x hfw hp => ?erase, fun x y hfw hp => ?chunk⟩
  case fields =>
    obtain ⟨hopcode, hdir, hhigh, hlow⟩ := header_of_serialize s.params Config.startRecv f.opcode f.dir hfield
    rw [← hframe] at hopcode hdir hhigh hlow
    exact ⟨hopcode, hdir, hhigh, hlow, hpayload, hfield.symm⟩
  case command =>
    rw [exec_decodeResponse_accepted hacc, returnFrame_of_resting f hrest]
    simp [deliver, endWith, emit, frameResults, setRState, viewsDefined]
  case erase => rw [exec_decodeResponse_accepted hacc, returnFrame_of_erasing hfw (hpayload.trans hp)]; rfl
  case chunk => rw [exec_decodeResponse_accepted hacc, returnFrame_of_streaming hfw (hpayload.trans hp)]; rfl

end Sys2Proof.Machine
end

section
/-! The chunk count (R207) as the ceiling of `chunkCountOf_le_iff`, put in the spec's words. -/

namespace Sys2Proof.Machine

/-- Only the empty image has no chunk (R208). -/
theorem chunkCountOf_eq_zero_iff {L C : Nat} (hC : 1 ≤ C) : chunkCountOf L C = 0 ↔ L = 0 := by
  rw [← Nat.le_zero, chunkCountOf_le_iff hC, Nat.zero_mul, Nat.le_zero]

/-- Settles O39: the first two clauses are R207's formula, the others what it means to be the ceiling. -/
theorem chunkCountIsTheCeiling : Obligations.ChunkCountIsTheCeiling := by
  refine fun L C hC => ⟨fun hdvd => ?exact, fun hrest => ?rest, ?atMost, le_chunkCountOf_mul hC, fun hL => ?fewer,
    chunkCountOf_eq_zero_iff hC⟩
  case exact => simp [chunkCountOf, hdvd]
  case rest => simp [chunkCountOf, hrest]
  case atMost => exact (chunkCountOf_le_iff hC).mpr (Nat.le_mul_of_pos_right L hC)
  case fewer =>
    have hsome : chunkCountOf L C ≠ 0 := fun h0 => hL.ne' ((chunkCountOf_eq_zero_iff hC).mp h0)
    exact mul_lt_of_lt_chunkCountOf hC (Nat.sub_one_lt hsome)

end Sys2Proof.Machine
end

section
/-! The two requests of a session that begin an exchange (R202, R210): the row puts `SER` next, and `SER` starts
`EXECUTE` with the arguments of the session's phase. -/

namespace Sys2Proof.Machine

theorem exec_clearStorageRequest (c : Byte) (s : State) :
    exec (.clearStorageRequest c) s = .next (beginExchange c [] s) := rfl

theorem exec_fwChunkRequest (c : Byte) (n k : Half) (data : Bytes) (s : State) :
    exec (.fwChunkRequest c n k data) s = .next (beginExchange c (chunkPayload n k data) s) := rfl

/-- The exchange a request has begun starts with its frame (R175). -/
theorem engineStep_beginExchange (o : Byte) (p : Bytes) (s : State) :
    engineStep (beginExchange o p s) = .next (loadFrame (requestFrame s.params o p) s) := rfl

/-- A 16-bit field is two bytes, most significant first (R64). -/
theorem be_half (n : Half) : be n.toNat 2 = [n.extractLsb' 8 8, n.extractLsb' 0 8] := rfl

/-- Settles O34: the arguments of an exchange in `Erasing` are those of `exchangeArgs_of_erasing`. -/
theorem eraseRequestBeginsItsExchange : Obligations.EraseRequestBeginsItsExchange := by
  refine fun s c => ⟨_, exec_clearStorageRequest c s, rfl, fun hfw => ?_⟩
  obtain ⟨hsize, htimeout⟩ := exchangeArgs_of_erasing hfw
  rw [engineStep_beginExchange, ← htimeout, show 5 + 1 + s.params.trailerLen = s.params.size 1 from rfl, ← hsize]
  rfl

/-- Settles O42: the payload is `CHUNK_PAYLOAD` with its two fields byte by byte, and the arguments of an exchange in
`Streaming` are those of `exchangeArgs_of_streaming`. -/
theorem chunkRequestBeginsItsExchange : Obligations.ChunkRequestBeginsItsExchange := by
  intro s c n k data p hp
  obtain rfl : p = chunkPayload n k data := by rw [hp, chunkPayload, be_half, be_half]; rfl
  refine ⟨_, exec_fwChunkRequest c n k data s, rfl, fun hfw => ?_⟩
  obtain ⟨hsize, htimeout⟩ := exchangeArgs_of_streaming hfw
  rw [engineStep_beginExchange, ← htimeout, show 5 + 2 + s.params.trailerLen = s.params.size 2 from rfl, ← hsize]
  rfl

end Sys2Proof.Machine
end

section
/-! A `T_WRITE` and a whole sleep (R172, R174), and what follows the reset-for-boot request (R204, R205). -/

namespace Sys2Proof.Machine

/-- A `T_WRITE` touches nothing but the world outside, whatever it answers (R172). -/
theorem tWrite_eq (b : Bytes) (s : State) : tWrite b s =
    { s with env := { (dropAck s).env with trace := s.env.trace ++ [.w b (nextAck s)] } } := by
  unfold tWrite dropAck
  cases s.env.ackQ <;> rfl

theorem Quiet.tWrite {s : State} (hquiet : Quiet s) (b : Bytes) : Quiet (tWrite b s) := by
  simpa [Quiet] using hquiet

section
variable {s : State} {n : Nap}

theorem engineStep_startSleep (hpos : s.pos = .startSleep n) :
    engineStep s = .next (goto (.sleeping n) (beginSleep n s)) := by
  simp [engineStep, hpos]

theorem engineStep_sleeping (hpos : s.pos = .sleeping n) : engineStep s = .next (sleepStep n s) := by
  simp [engineStep, hpos]

theorem sleepStep_of_timer_zero (htimer : s.seq.timer = 0) : sleepStep n s = endSleep n s := if_pos htimer

theorem sleepStep_of_timer_ne_zero (htimer : s.seq.timer ≠ 0) : sleepStep n s = tickTimer s := if_neg htimer

/-- The ticks of a sleep count the timer down to 0 and change nothing else. -/
theorem runFor_timer (hquiet : Quiet s) (hpos : s.pos = .sleeping n) :
    runFor s.seq.timer.toNat s = .next { s with seq := { s.seq with timer := 0 } } := by
  induction hk : s.seq.timer.toNat generalizing s with
  | zero =>
    have htimer : s.seq.timer = 0 := BitVec.eq_of_toNat_eq hk
    rw [runFor_zero, ← htimer]
  | succ k ih =>
    have htimer : s.seq.timer ≠ 0 := by rintro h0; rw [h0] at hk; contradiction
    have htick : step s = .next (tickTimer s) := by
      rw [step_quiet hquiet, engineStep_sleeping hpos, sleepStep_of_timer_ne_zero htimer]
    have hleft : (tickTimer s).seq.timer.toNat = k := by rw [tickTimer_seq]; bv_omega
    rw [runFor_succ k htick]
    exact ih hquiet hpos hleft

/-- A whole sleep: the step that starts it, a step a tick, and the step that goes on after it (log entry 11). -/
theorem runFor_sleep (hquiet : Quiet s) (hpos : s.pos = .startSleep n) :
    runFor (1 + (napMs n s).toNat + 1) s = .next (endSleep n (goto (.sleeping n) (slept n s))) := by
  have hstart : step s = .next (goto (.sleeping n) (beginSleep n s)) := by
    rw [step_quiet hquiet, engineStep_startSleep hpos]
  have hticks : runFor (napMs n s).toNat (goto (.sleeping n) (beginSleep n s)) =
      .next (goto (.sleeping n) (slept n s)) :=
    runFor_timer (s := goto (.sleeping n) (beginSleep n s)) hquiet rfl
  have hend : step (goto (.sleeping n) (slept n s)) = .next (endSleep n (goto (.sleeping n) (slept n s))) := by
    rw [step_quiet (s := goto (.sleeping n) (slept n s)) hquiet, engineStep_sleeping rfl, sleepStep_of_timer_zero rfl]
  rw [Nat.add_assoc, runFor_add 1 _ (runFor_succ 0 hstart), runFor_add _ 1 hticks, runFor_succ 0 hend, runFor_zero]

end

theorem exec_resetForBootRequest (c : Byte) (s : State) : exec (.resetForBootRequest c) s =
    .next (goto (.startSleep .settle) (tWrite (requestFrame s.params c []) s)) := rfl

/-- A successful erase without a boot request goes to `Streaming` (R206). -/
theorem exec_clearStorageReply_noBoot {s : State} (o d : Byte) (hboot : s.regs.fwBoot = false) :
    exec (.clearStorageReply o d s.params.statusOk) s = .next (enterStreaming s) := by
  simp [exec, execClearStorageReply, hboot]

/-- Settles O37: the one write leaves the engine at the start of the settle delay, 800 ticks and two steps long. -/
theorem settleDelayFollowsTheBootRequest : Obligations.SettleDelayFollowsTheBootRequest := by
  refine ⟨fun s c hquiet hpos => ?delayed, fun s o d hboot => exec_clearStorageReply_noBoot o d hboot⟩
  case delayed =>
    have hwrite : step s = .next (goto (.startSleep .settle) (tWrite (requestFrame s.params c []) s)) := by
      rw [step_quiet hquiet, engineStep_op hpos, exec_resetForBootRequest]
    rw [runFor_succ 802 hwrite]
    calc runFor 802 (goto (.startSleep .settle) (tWrite (requestFrame s.params c []) s))
        = .next (enterStreaming (goto (.sleeping .settle)
            (slept .settle (goto (.startSleep .settle) (tWrite (requestFrame s.params c []) s))))) :=
          runFor_sleep (n := .settle) (hquiet.tWrite _) rfl
      _ = _ := by
        rw [tWrite_eq]
        simp [enterStreaming, slept, goto, setFwState, emit, napKind, napMs, requestFrame, Config.settleMs,
          Config.startSent, Config.dirReq]

end Sys2Proof.Machine
end

section
/-! The tracker while no session is under way (R37): no step but the issue of `FW_UPDATE` and a reset writes a register
of it, since what clears `PROGRESS_VALID` finds it clear. -/

namespace Sys2Proof.Machine

/-- A next state that `r` answers, if any, has the tracker registers of `s`. -/
def KeepsTracker (s : State) (r : Result) : Prop := ∀ t, r = .next t → t.fw = s.fw

theorem keepsTracker_next {s t : State} (h : t.fw = s.fw) : KeepsTracker s (.next t) := by
  rintro _ ⟨⟩
  exact h

theorem keepsTracker_fault (s : State) (f : Fault) : KeepsTracker s (.fault f) := by
  rintro _ ⟨⟩

/-- A command keeps the tracker at its issue if what it runs then keeps it. -/
theorem keepsTracker_ifIdle {s : State} {run : State → State} (h : (run (issue s)).fw = s.fw) :
    KeepsTracker s (ifIdle s run) := by
  obtain ⟨-, heq⟩ | ⟨-, heq⟩ := ifIdle_cases s run
  · rw [heq]; exact keepsTracker_next rfl
  · rw [heq]; exact keepsTracker_next h

/-- With no value on offer there is nothing to take (R220). -/
theorem takeProgress_fw_of_not_valid {s : State} (hvalid : s.fw.progressValid = false) :
    (takeProgress s).fw = s.fw := by
  rw [takeProgress_fw, ← hvalid]

theorem keepsTracker_execProgressTake {s : State} (hvalid : s.fw.progressValid = false) :
    KeepsTracker s (execProgressTake s) := by
  unfold execProgressTake
  split
  · exact keepsTracker_next (takeProgress_fw_of_not_valid hvalid)
  · exact keepsTracker_next (takeProgress_fw_of_not_valid (s := issue s) hvalid)

theorem keepsTracker_execWriteValue (s : State) : KeepsTracker s (execWriteValue s) := by
  unfold execWriteValue
  split <;> exact keepsTracker_ifIdle rfl

/-- A call of `OPEN` leaves the tracker alone, whatever it answers. -/
theorem openCall_fw (s : State) : (openCall s).fw = s.fw := by
  unfold openCall
  split <;> simp [endUnavailable]

/-- No host command but `FW_UPDATE` writes the tracker. -/
theorem keepsTracker_exec_decodeCmd {s : State} {c : BitVec 4} (hvalid : s.fw.progressValid = false) (hc : c ≠ 5) :
    KeepsTracker s (exec (decodeCmd c) s) := by
  unfold decodeCmd
  split
  case h_1 => exact keepsTracker_ifIdle rfl
  case h_2 => exact keepsTracker_ifIdle rfl
  case h_3 => exact keepsTracker_ifIdle rfl
  case h_4 => exact keepsTracker_execWriteValue s
  case h_5 => exact keepsTracker_ifIdle rfl
  case h_6 hcode => exact absurd (BitVec.eq_of_toNat_eq hcode) hc
  case h_7 => exact keepsTracker_execProgressTake hvalid
  case h_8 => exact keepsTracker_ifIdle rfl
  case h_9 => exact keepsTracker_ifIdle rfl

section
variable {s : State} (hrest : resting s.fw.fwState = true)
include hrest

/-- A place that belongs to one phase (`phaseAllowed`) is reached at rest only if that phase is a resting state. -/
theorem resting_of_phase {f : FwState} (hphase : decide (s.fw.fwState = f) = true) : resting f = true :=
  of_decide_eq_true hphase ▸ hrest

theorem returnNone_of_resting : returnNone s = endUnavailable (setRState .idle s) := by
  simp [returnNone, caller_of_resting hrest]

theorem afterBackoff_fw_of_resting : (afterBackoff s).fw = s.fw := by
  obtain ⟨-, h⟩ | ⟨-, h⟩ := afterBackoff_cases s
  · rw [h, returnNone_of_resting hrest]; rfl
  · rw [h]; rfl

theorem keepsTracker_decodeResponse_of_resting (b : Bytes) : KeepsTracker s (exec (.decodeResponse b) s) := by
  cases hdec : decodeResponse s.params b s.seq.xRsize with
  | none => rw [exec_decodeResponse_rejected hdec]; exact keepsTracker_next rfl
  | some f =>
    rw [exec_decodeResponse_accepted hdec, returnFrame_of_resting f hrest]
    exact keepsTracker_next rfl

/-- Of the operations only those of an ordinary command run while no session is under way. -/
theorem keepsTracker_exec_of_resting {i : Instr} (hop : opAllowed i s.fw.fwState = true) :
    KeepsTracker s (exec i s) := by
  unfold opAllowed at hop
  split at hop
  case h_1 o p =>
    show KeepsTracker s (execEncodeRequest o p s)
    unfold execEncodeRequest
    split <;> exact keepsTracker_next rfl
  case h_2 => exact keepsTracker_next rfl
  case h_9 => contradiction
  -- The others run in phases of a session.
  all_goals exact absurd (resting_of_phase hrest hop) nofun

theorem endSleep_fw_of_resting {n : Nap} (hsettle : n ≠ .settle) : (endSleep n s).fw = s.fw := by
  cases n with
  | wait sent => cases sent <;> rfl
  | backoff => exact afterBackoff_fw_of_resting hrest
  | settle => contradiction

theorem sleepStep_fw_of_resting {n : Nap} (hsettle : n ≠ .settle) : (sleepStep n s).fw = s.fw := by
  unfold sleepStep
  split
  · exact endSleep_fw_of_resting hrest hsettle
  · rfl

/-- At the places of an ordinary command the engine keeps the tracker. -/
theorem keepsTracker_engineStep_of_resting (hphase : phaseAllowed s.pos s.fw.fwState = true) :
    KeepsTracker s (engineStep s) := by
  unfold engineStep
  cases hpos : s.pos with
  | idle => exact keepsTracker_next rfl
  | openCall => exact keepsTracker_next (openCall_fw s)
  | op i => exact keepsTracker_exec_of_resting hrest (by rwa [hpos] at hphase)
  | send => exact keepsTracker_next (by simp [sendRequest])
  | startSleep n => exact keepsTracker_next rfl
  | sleeping n =>
    refine keepsTracker_next (sleepStep_fw_of_resting hrest ?_)
    rintro rfl
    rw [hpos] at hphase
    exact absurd (resting_of_phase hrest hphase) nofun
  | recv => exact keepsTracker_next (by simp [recvResponse])
  | check => exact keepsTracker_decodeResponse_of_resting hrest _
  | countChunks => rw [hpos] at hphase; exact absurd (resting_of_phase hrest hphase) nofun
  | loadChunk => rw [hpos] at hphase; exact absurd (resting_of_phase hrest hphase) nofun
  | hold a => rw [hpos] at hphase; exact absurd (resting_of_phase hrest hphase) nofun
  | finish => rw [hpos] at hphase; exact absurd (resting_of_phase hrest hphase) nofun

end

theorem keepsTracker_hostWrite (w : RegWrite) (s : State) : KeepsTracker s (hostWrite w s) := by
  unfold hostWrite
  split
  · exact keepsTracker_next rfl
  · split
    · exact keepsTracker_next rfl
    · exact keepsTracker_fault _ _

theorem keepsTracker_hostMove_of_resting {s : State} {m : HostMove} (hrest : resting s.fw.fwState = true)
    (hphase : phaseAllowed s.pos s.fw.fwState = true) (hm : m ≠ .reset) : KeepsTracker s (hostMove m s) := by
  cases m with
  | pass => exact keepsTracker_engineStep_of_resting hrest hphase
  | write w => exact keepsTracker_hostWrite w s
  | cmd c => exact keepsTracker_next rfl
  | reset => contradiction

/-- A value on offer is one of a running session (R219). -/
theorem Invariant.not_valid_of_resting {s : State} (hinv : Invariant s) (hrest : resting s.fw.fwState = true) :
    s.fw.progressValid = false := by
  rw [← Bool.not_eq_true]
  intro hvalid
  obtain ⟨a, hpos⟩ := hinv.valid_held hvalid
  have hphase := hinv.phase
  rw [hpos] at hphase
  exact absurd (resting_of_phase hrest hphase) nofun

/-- While no session is under way every step but an `FW_UPDATE` and a reset keeps the tracker. -/
theorem keepsTracker_step_of_resting {s : State} (hinv : Invariant s) (hrest : resting s.fw.fwState = true)
    (hcmd : s.cmd ≠ some 5) (hreset : s.cmd = none → s.env.inputs.head? ≠ some .reset) :
    KeepsTracker s (step s) := by
  unfold step
  obtain ⟨c, hc, heq⟩ | ⟨-, -, heq⟩ | ⟨m, q, hnone, hmove, heq⟩ := step_cases s <;> rw [heq]
  case inl =>
    exact keepsTracker_exec_decodeCmd (s := dropCmd s) (hinv.not_valid_of_resting hrest)
      fun h5 => hcmd (h5 ▸ hc)
  case inr.inl => exact keepsTracker_engineStep_of_resting hrest hinv.phase
  case inr.inr =>
    exact keepsTracker_hostMove_of_resting (s := dropInput s) hrest hinv.phase
      fun hm => hreset hnone (by rw [hmove, hm]; rfl)

theorem exec_resetMcuRequest (c : Byte) (s : State) : exec (.resetMcuRequest c) s =
    .next (goto .finish (tWrite (requestFrame s.params c []) s)) := rfl

theorem engineStep_finish {s : State} (hpos : s.pos = .finish) : engineStep s = .next (finishSession s) := by
  simp [engineStep, hpos]

/-- Settles O48: the write touches the world outside only and `finishSession` follows it; `Done` is a state at rest, so
that its steps keep the whole tracker, and by the invariant the sentinel led to it. -/
theorem mcuResetThenDone : Obligations.McuResetThenDone := by
  refine ⟨fun s c => ?request, fun s t hinv hdone hstep hcmd hreset => ?kept⟩
  case request =>
    refine ⟨_, exec_resetMcuRequest c s, ?_, ?_⟩
    · rw [tWrite_eq]; rfl
    · rw [engineStep_finish (goto_pos _ _), tWrite_eq]; rfl
  case kept =>
    have hrest : resting s.fw.fwState = true := by rw [hdone]; rfl
    have hfw : t.fw = s.fw := keepsTracker_step_of_resting hinv hrest hcmd hreset t hstep
    have hsentinel : s.fw.reqId = 0xFFFF := hinv.done_sentinel (.inr hdone)
    rw [hfw]
    exact ⟨rfl, rfl, hsentinel, hsentinel, rfl, hdone⟩

end Sys2Proof.Machine
end

section
/-! One attempt of an exchange that is answered with a frame (R175): the send, the delay, the read and the decoding,
with both answers queued. -/

namespace Sys2Proof.Machine

/-- While the host is silent a step of the engine goes on with a run. -/
theorem Reaches.engineStep {s t u : State} (hrun : Reaches s t) (hquiet : Quiet t) (h : engineStep t = .next u) :
    Reaches s u :=
  hrun.trans (.of_step (by rw [step_quiet hquiet, h]))

theorem tWrite_of_ackQ {s : State} {a : Ack} {q : List Ack} (b : Bytes) (hq : s.env.ackQ = a :: q) : tWrite b s =
    { s with env := { s.env with ackQ := q, trace := s.env.trace ++ [.w b a] } } := by
  simp [tWrite, dropAck, nextAck, emit, hq]

/-- An answer no longer than what was asked for arrives whole (R173). -/
theorem tRead_of_readQ {s : State} {b : Bytes} {q : List ReadAns} {n : Nat} (hq : s.env.readQ = .bytes b :: q)
    (hlen : b.length ≤ n) : tRead n s =
      { s with
        seq := { s.seq with rbuf := b, rlen := BitVec.ofNat 16 b.length }
        env := { s.env with readQ := q, trace := s.env.trace ++ [.r n (.bytes b)] } } := by
  simp [tRead, dropRead, nextRead, cutAns, fillRbuf, emit, hq, List.take_of_length_le hlen]

/-- The machine before the read of an attempt begun in `s` whose send was answered `Ok`, with the answers `qa` left. -/
def delayed (qa : List Ack) (s : State) : State :=
  { s with
    pos := .recv
    seq := { s.seq with rstate := .read, timer := 0 }
    env := { s.env with ackQ := qa, trace := s.env.trace ++ [.w (toSend s) .ok, .s .wait s.seq.xTimeout] } }

/-- The events of an attempt begun in `s` that is answered with the bytes `b`. -/
def attemptEvents (s : State) (b : Bytes) : List Event :=
  [.w (toSend s) .ok, .s .wait s.seq.xTimeout, .r s.seq.xRsize.toNat (.bytes b)]

/-- The machine before the decoding of the answer `b` to an attempt begun in `s`, with the answers `qa` and `qr`
left. -/
def answered (b : Bytes) (qa : List Ack) (qr : List ReadAns) (s : State) : State :=
  { s with
    pos := .check
    seq := { s.seq with rstate := .check, timer := 0, rbuf := b, rlen := BitVec.ofNat 16 b.length }
    env := { s.env with ackQ := qa, readQ := qr, trace := s.env.trace ++ attemptEvents s b } }

theorem engineStep_send {s : State} (hpos : s.pos = .send) : engineStep s = .next (sendRequest s) := by
  simp [engineStep, hpos]

theorem received_answered {b : Bytes} (hlen : b.length < 2 ^ 16) (qa : List Ack) (qr : List ReadAns) (s : State) :
    received (answered b qa qr s) = b := by
  have hrlen : (BitVec.ofNat 16 b.length).toNat = b.length := Nat.mod_eq_of_lt hlen
  rw [received, answered, hrlen, List.take_length]

section
variable {s : State} {b : Bytes} {qa : List Ack} {qr : List ReadAns}

theorem sendRequest_of_ackQ (hack : s.env.ackQ = .ok :: qa) : sendRequest s = { s with
    pos := .startSleep (.wait .ok)
    seq := { s.seq with rstate := .wait }
    env := { s.env with ackQ := qa, trace := s.env.trace ++ [.w (toSend s) .ok] } } := by
  simp [sendRequest, tWrite_of_ackQ _ hack, nextAck, hack, goto, setRState]

/-- The send and the delay. -/
theorem reaches_delayed (hquiet : Quiet s) (hpos : s.pos = .send) (hack : s.env.ackQ = .ok :: qa) :
    Reaches s (delayed qa s) := by
  have hsend : Reaches s (sendRequest s) := (Reaches.refl s).engineStep hquiet (engineStep_send hpos)
  rw [sendRequest_of_ackQ hack] at hsend
  refine hsend.trans ⟨_, (runFor_sleep (n := .wait .ok) ?_ rfl).trans ?_⟩
  · exact hquiet
  · simp [endSleep, slept, delayed, goto, setRState, emit, napKind, napMs]

/-- The read. -/
theorem engineStep_delayed (hread : s.env.readQ = .bytes b :: qr) (hlen : b.length ≤ s.seq.xRsize.toNat) :
    engineStep (delayed qa s) = .next (answered b qa qr s) := by
  have hfill := tRead_of_readQ (s := delayed qa s) hread hlen
  rw [engineStep_recv rfl, recvResponse, show (delayed qa s).seq.xRsize = s.seq.xRsize from rfl, hfill]
  simp [delayed, answered, attemptEvents, goto, setRState]

/-- An attempt whose answer the decoder accepts gives the frame to the exchange's caller. -/
theorem reaches_returnFrame {f : Frame} (hquiet : Quiet s) (hpos : s.pos = .send) (hack : s.env.ackQ = .ok :: qa)
    (hread : s.env.readQ = .bytes b :: qr) (hacc : decodeResponse s.params b s.seq.xRsize = some f) :
    Reaches s (returnFrame f (answered b qa qr s)) := by
  have hlen : b.length = s.seq.xRsize.toNat := length_of_decodeResponse hacc
  have hshort : b.length < 2 ^ 16 := hlen ▸ s.seq.xRsize.isLt
  have hdecode : engineStep (answered b qa qr s) = .next (returnFrame f (answered b qa qr s)) := by
    rw [engineStep_check rfl, received_answered hshort]
    exact exec_decodeResponse_accepted hacc
  have hread' := (reaches_delayed hquiet hpos hack).engineStep hquiet (engineStep_delayed hread hlen.le)
  exact hread'.engineStep hquiet hdecode

end

end Sys2Proof.Machine
end

section
/-! A chunk that is requested again (R214): loading it, its exchange and the reply, from one loading to the next, and
any number of such rounds (D23). -/

namespace Sys2Proof.Machine

/-- The request frame of the current chunk (R210). -/
def chunkFrame (s : State) : Bytes :=
  requestFrame s.params s.params.opcFwChunk (chunkPayload s.fw.chunkCount s.fw.chunkIndex (currentChunk s))

/-- `FINAL` set for the current chunk (R209). -/
def withFinal (s : State) : State :=
  { s with fw := { s.fw with finalChunk := decide (s.fw.chunkIndex = s.fw.chunkCount) } }

/-- The machine before the first attempt of the current chunk's exchange. -/
def chunkLoaded (s : State) : State := loadFrame (chunkFrame s) (withFinal s)

/-- A reply that requests the current chunk. -/
def sameChunkReply (o d : Byte) (s : State) : Bytes :=
  serialize s.params Config.startRecv o d (be s.fw.chunkIndex.toNat 2)

/-- The machine at the loading of the chunk that the answer `b` to its exchange has requested again, with the answers
`qa` and `qr` left. -/
def resent (b : Bytes) (qa : List Ack) (qr : List ReadAns) (s : State) : State :=
  { s with
    pos := .loadChunk
    fw := { s.fw with reqId := s.fw.chunkIndex, finalChunk := decide (s.fw.chunkIndex = s.fw.chunkCount) }
    seq := { (answered b qa qr (chunkLoaded s)).seq with rstate := .idle }
    env := { s.env with ackQ := qa, readQ := qr, trace := s.env.trace ++ attemptEvents (chunkLoaded s) b } }

/-- `resent` is what the reply leaves of the state before the decoding (R212, R214). -/
theorem goto_setReqId_answered (b : Bytes) (qa : List Ack) (qr : List ReadAns) (s : State) :
    goto .loadChunk (setReqId s.fw.chunkIndex (setRState .idle (answered b qa qr (chunkLoaded s)))) =
      resent b qa qr s := by
  simp [goto, setReqId, setRState, answered, resent, chunkLoaded, loadFrame, withFinal]

@[simp] theorem chunkPayload_length (n k : Half) (data : Bytes) : (chunkPayload n k data).length = 4 + data.length := by
  simp [chunkPayload]; omega

/-- The reply that requests the current chunk puts its loading next (R214). -/
theorem engineStep_sameChunk {s : State} {k : Half} (o d : Byte) (hk : s.fw.chunkIndex = k)
    (hne : k ≠ Config.sentinel) :
    engineStep (goto (.op (.fwChunkReply o d k)) s) = .next (goto .loadChunk (setReqId k s)) := by
  subst hk
  rw [engineStep_op (goto_pos _ _)]
  simp [exec, execFwChunkReply, hne, goto, setReqId]

/-- An accepted reply with the two bytes of `k` requests chunk `k` (R212). -/
theorem returnFrame_of_chunkId {s : State} {f : Frame} {k : Half} (hfw : s.fw.fwState = .streaming)
    (hp : f.payload = be k.toNat 2) :
    returnFrame f s = goto (.op (.fwChunkReply f.opcode f.dir k)) (setRState .idle s) := by
  have hk : BitVec.ofNat 16 (ube (be k.toNat 2)) = k := by
    rw [ube_be, Nat.mod_eq_of_lt k.isLt, BitVec.ofNat_toNat, BitVec.setWidth_eq]
  rw [be_half] at hk hp
  rw [returnFrame_of_streaming hfw hp, ← ofNat_ube_pair, hk]

section
variable {s : State} (hinv : Invariant s) (hpos : s.pos = .loadChunk)
include hinv hpos

theorem Invariant.index_range_of_loadChunk :
    1 ≤ s.fw.chunkIndex.toNat ∧ s.fw.chunkIndex.toNat ≤ s.fw.chunkCount.toNat ∧ s.fw.chunkCount.toNat ≤ 0xFFFE ∧
      s.fw.chunkCount.toNat = imageChunks s :=
  hinv.index_range (hinv.streaming_of_loadChunk hpos) (by rw [hpos]; exact nofun)

/-- No chunk has the sentinel as its id (R207, R208). -/
theorem Invariant.chunkIndex_ne_sentinel : s.fw.chunkIndex ≠ Config.sentinel := by
  obtain ⟨-, hlast, hmax, -⟩ := hinv.index_range_of_loadChunk hpos
  intro heq
  rw [heq] at hlast
  exact absurd (hlast.trans hmax) (by decide)

/-- The current chunk's payload is one that fits (R9, R101). -/
theorem Invariant.chunkPayload_fits :
    (chunkPayload s.fw.chunkCount s.fw.chunkIndex (currentChunk s)).length ≤ s.params.payloadMax := by
  obtain ⟨hfirst, hlast, -, hcount⟩ := hinv.index_range_of_loadChunk hpos
  obtain ⟨hC, hmax, -⟩ := hinv.params_wf
  obtain ⟨-, hlen, -⟩ := chunkLen_bounds hC hfirst (hlast.trans_eq hcount)
  rw [chunkPayload_length, currentChunk, hcount, chunkData_length]
  exact (Nat.add_le_add_left hlen 4).trans hmax

/-- The transmit buffer holds the whole frame (R31). -/
theorem Invariant.toSend_chunkLoaded : toSend (chunkLoaded s) = chunkFrame s := by
  obtain ⟨-, -, -, -, hsize, -⟩ := hinv.params_wf
  refine toSend_loadFrame _ _ (lt_of_le_of_lt ?_ hsize)
  rw [chunkFrame, requestFrame, serialize_length]
  have hfits := hinv.chunkPayload_fits hpos
  unfold Params.size
  omega

/-- Loading the chunk and making its frame. -/
theorem reaches_chunkLoaded (hquiet : Quiet s) : Reaches s (chunkLoaded s) := by
  have hload : engineStep s = .next (goto (.op (.fwChunkRequest s.params.opcFwChunk s.fw.chunkCount s.fw.chunkIndex
      (currentChunk s))) (withFinal s)) := loadingAChunkCompletes s hinv hpos
  have hrequest := ((Reaches.refl s).engineStep hquiet hload).engineStep hquiet (exec_fwChunkRequest ..)
  exact hrequest.engineStep hquiet (engineStep_beginExchange _ _ (withFinal s))

/-- The decoder accepts the reply: the exchange expects a frame of `SIZE(2)` (R210). -/
theorem Invariant.decode_sameChunkReply (o d : Byte) :
    decodeResponse s.params (sameChunkReply o d s) (chunkLoaded s).seq.xRsize =
      some ⟨o, d, 2, be s.fw.chunkIndex.toNat 2⟩ := by
  obtain ⟨-, -, -, -, -, hsize⟩ := hinv.params_wf
  obtain ⟨hexpected, -⟩ := exchangeArgs_of_streaming (s := withFinal s) (hinv.streaming_of_loadChunk hpos)
  have hfits : s.params.size (be s.fw.chunkIndex.toNat 2).length ≤ 65535 := by
    rw [be_length]
    unfold Params.size at hsize ⊢
    omega
  have hdecode := (decoderRecoversSerializedFrames s.params o d _ hfits).1
  rw [be_length] at hdecode
  rw [chunkLoaded, loadFrame_seq, hexpected]
  exact hdecode

/-- One round: the chunk is loaded, sent, answered and requested again. -/
theorem reaches_resent {o d : Byte} {qa : List Ack} {qr : List ReadAns} (hquiet : Quiet s)
    (hack : s.env.ackQ = .ok :: qa) (hread : s.env.readQ = .bytes (sameChunkReply o d s) :: qr) :
    Reaches s (resent (sameChunkReply o d s) qa qr s) := by
  have hframe := reaches_returnFrame (s := chunkLoaded s) hquiet rfl hack hread (hinv.decode_sameChunkReply hpos o d)
  rw [returnFrame_of_chunkId (s := answered (sameChunkReply o d s) qa qr (chunkLoaded s)) (k := s.fw.chunkIndex)
    (hinv.streaming_of_loadChunk hpos) rfl] at hframe
  rw [← goto_setReqId_answered]
  exact ((reaches_chunkLoaded hinv hpos hquiet).trans hframe).engineStep hquiet
    (engineStep_sameChunk o d rfl (hinv.chunkIndex_ne_sentinel hpos))

/-- A round leaves the session as it was, but for `REQ_ID` and `FINAL`, and its exchange at its end. -/
theorem Invariant.resent (b : Bytes) (qa : List Ack) (qr : List ReadAns) :
    Invariant (Machine.resent b qa qr s) where
  params_wf := hinv.params_wf
  img_wf := hinv.img_wf
  pbuf_wf := hinv.pbuf_wf
  addr_fits := hinv.addr_fits
  busy_iff := iff_of_true (hinv.busy_iff.mpr (by rw [hpos]; exact nofun)) nofun
  rstate_eq := rfl
  attempt_le := Nat.zero_le 9
  timer_zero h := absurd rfl h
  phase := decide_eq_true (hinv.streaming_of_loadChunk hpos)
  op_operands := nofun
  carries := nofun
  expects := nofun
  index_range _ _ := hinv.index_range_of_loadChunk hpos
  progress_le hfw _ := hinv.progress_le hfw (by rw [hpos]; exact nofun)
  progress_range := hinv.progress_range
  valid_held hvalid := by
    obtain ⟨a, hhold⟩ := hinv.valid_held hvalid
    rw [hpos] at hhold
    contradiction
  hold_advance := nofun
  hold_sentinel := nofun
  done_sentinel hend := by
    have hfw : s.fw.fwState = .finalizing ∨ s.fw.fwState = .done := hend
    rw [hinv.streaming_of_loadChunk hpos] at hfw
    simp at hfw
  final_last hfinal := ⟨hinv.streaming_of_loadChunk hpos, nofun, of_decide_eq_true hfinal⟩
  err_aborted := hinv.err_aborted
  progress_fresh hearly := by
    have hfw : s.fw.fwState = .erasing ∨ s.fw.fwState = .bootRequested := hearly.imp_right (·.resolve_right nofun)
    rw [hinv.streaming_of_loadChunk hpos] at hfw
    simp at hfw

end

/-- The number of writes is the number of frames written. -/
theorem countW_eq_length_framesIn (es : List Event) : countW es = (framesIn es).length := by
  induction es with
  | nil => rfl
  | cons e es ih => cases e <;> simp [countW, ih, Nat.add_comm]

theorem mem_framesIn_of_write {es : List Event} {b : Bytes} {r : Ack} (h : Event.w b r ∈ es) : b ∈ framesIn es :=
  List.mem_filterMap.mpr ⟨_, h, rfl⟩

/-- The events of `N` rounds in which the chunk loaded in `s` is answered with the bytes `b`. -/
def resendEvents (s : State) (b : Bytes) (N : Nat) : List Event :=
  (List.replicate N (attemptEvents (chunkLoaded s) b)).flatten

theorem resendEvents_succ (s : State) (b : Bytes) (N : Nat) :
    resendEvents s b (N + 1) = attemptEvents (chunkLoaded s) b ++ resendEvents s b N := rfl

/-- Each round writes one frame, the chunk's. -/
theorem framesIn_resendEvents (s : State) (b : Bytes) (N : Nat) :
    framesIn (resendEvents s b N) = List.replicate N (toSend (chunkLoaded s)) := by
  induction N with
  | zero => rfl
  | succ N ih => rw [resendEvents_succ, framesIn_append, ih]; rfl

/-- No round surfaces a progress value. -/
theorem progress_notMem_resendEvents (s : State) (b : Bytes) (N : Nat) (v : BitVec 7) :
    Event.p v ∉ resendEvents s b N := by
  simp [resendEvents, attemptEvents]

section
variable (b : Bytes) (qa : List Ack) (qr : List ReadAns) (s : State)

/-- A round is about the same chunk as the one before it. -/
theorem resendEvents_resent (b' : Bytes) (N : Nat) : resendEvents (resent b qa qr s) b' N = resendEvents s b' N := rfl

theorem sameChunkReply_resent (o d : Byte) : sameChunkReply o d (resent b qa qr s) = sameChunkReply o d s := rfl

theorem resent_trace : (resent b qa qr s).env.trace = s.env.trace ++ attemptEvents (chunkLoaded s) b := rfl

end

/-- `N` rounds, by induction on `N`: each starts in the invariant, over the same chunk. -/
theorem reaches_resends {o d : Byte} {qa : List Ack} {qr : List ReadAns} (N : Nat) {s : State} (hinv : Invariant s)
    (hquiet : Quiet s) (hpos : s.pos = .loadChunk) (hack : s.env.ackQ = List.replicate N .ok ++ qa)
    (hread : s.env.readQ = List.replicate N (.bytes (sameChunkReply o d s)) ++ qr) :
    ∃ t, Reaches s t ∧ t.pos = .loadChunk ∧ t.env.ackQ = qa ∧ t.env.readQ = qr ∧
      t.env.trace = s.env.trace ++ resendEvents s (sameChunkReply o d s) N ∧
      t.fw.chunkIndex = s.fw.chunkIndex ∧ t.fw.lastProgress = s.fw.lastProgress ∧ t.fw.fwState = s.fw.fwState := by
  induction N generalizing s with
  | zero => exact ⟨s, .refl s, hpos, hack, hread, (List.append_nil _).symm, rfl, rfl, rfl⟩
  | succ N ih =>
    have hround := reaches_resent hinv hpos hquiet hack hread
    have hinv' := hinv.resent hpos (sameChunkReply o d s) (List.replicate N .ok ++ qa)
      (List.replicate N (.bytes (sameChunkReply o d s)) ++ qr)
    obtain ⟨t, hrun, htpos, htack, htread, htrace, hsame⟩ :=
      ih hinv' hquiet rfl rfl (by rw [sameChunkReply_resent]; rfl)
    refine ⟨t, hround.trans hrun, htpos, htack, htread, ?_, hsame⟩
    rw [htrace, sameChunkReply_resent, resendEvents_resent, resent_trace, resendEvents_succ, List.append_assoc]

/-- Settles O49: the events are those of `N` rounds, and each round writes the frame the invariant says is the
chunk's. -/
theorem endlessResendIsAdmitted : Obligations.EndlessResendIsAdmitted := by
  intro N s o d qa qr hinv hquiet hpos hack hread
  obtain ⟨t, hrun, htpos, htack, htread, htrace, hsame⟩ := reaches_resends N hinv hquiet hpos hack hread
  refine ⟨t, _, hrun, htpos, htack, htread, htrace, ?count, progress_notMem_resendEvents s _ N,
    fun b r hwrite => ?frame, hsame⟩
  case count => rw [countW_eq_length_framesIn, framesIn_resendEvents, List.length_replicate]
  case frame =>
    have hb := mem_framesIn_of_write hwrite
    rw [framesIn_resendEvents, hinv.toSend_chunkLoaded hpos] at hb
    exact List.eq_of_mem_replicate hb

end Sys2Proof.Machine
end

section
/-! The end of a failed attempt's backoff (R175, R177): the next attempt, or the exhausted exchange handed to its caller
(R243). -/

namespace Sys2Proof.Machine

section
variable {s : State}

/-- The step that ends the backoff decides on the next attempt. -/
theorem engineStep_backoff_of_timer_zero (hpos : s.pos = .sleeping .backoff) (htimer : s.seq.timer = 0) :
    engineStep s = .next (afterBackoff s) := by
  rw [engineStep_sleeping hpos, sleepStep_of_timer_zero htimer]
  rfl

theorem afterBackoff_of_attempts_left (hleft : s.seq.attempt.toNat ≠ 9) : afterBackoff s =
    goto .send { s with seq := { s.seq with attempt := s.seq.attempt + 1, rstate := .send } } := if_neg hleft

theorem afterBackoff_of_exhausted (hlast : s.seq.attempt.toNat = 9) : afterBackoff s = returnNone s := if_pos hlast

theorem returnNone_of_erasing (hfw : s.fw.fwState = .erasing) : returnNone s = abort .storageClearFailed s := by
  simp [returnNone, caller, hfw]

theorem returnNone_of_streaming (hfw : s.fw.fwState = .streaming) : returnNone s = abort .chunkNoResponse s := by
  simp [returnNone, caller, hfw]

end

/-- Settles O30: an exhausted exchange ends as its caller says (`returnNone`), and the caller is told by `FW_STATE`. -/
theorem exhaustionGoesToTheCaller : Obligations.ExhaustionGoesToTheCaller := by
  intro s hpos htimer
  rw [engineStep_backoff_of_timer_zero hpos htimer]
  refine ⟨fun hleft => ?retry, fun hlast hrest => ?command, fun code hlast hsession => ?session⟩
  case retry => rw [afterBackoff_of_attempts_left hleft.ne]; rfl
  case command => rw [afterBackoff_of_exhausted hlast, returnNone_of_resting hrest]; rfl
  case session =>
    rw [afterBackoff_of_exhausted hlast]
    obtain ⟨hfw, rfl⟩ | ⟨hfw, rfl⟩ := hsession
    · rw [returnNone_of_erasing hfw]; rfl
    · rw [returnNone_of_streaming hfw]; rfl

end Sys2Proof.Machine
end

section
/-! The encoder and the decoder row by row (R91, R104): a frame's header splits off again, and each test of the decoder
says which bytes pass it. -/

namespace Sys2Proof.Machine

/-- A well-formed frame reaches its row with the header it was made with. -/
theorem decode_frameBody (r : Role) (s o d : Byte) {p : Bytes} (hp : p.length ≤ 65535) :
    decode (.frame r) (frameBody s o d p) = decodeFrame r ⟨s, o, d, p.length⟩ p (frameBody s o d p) := by
  simp only [decode]
  rw [frameBody, splitHeader_headerBytes _ _ _ _ _ hp]

theorem exactPayload_eq_ok_iff {n : Nat} {rest p : Bytes} :
    exactPayload n rest = .ok p ↔ rest = p ∧ rest.length = n := by
  unfold exactPayload
  split_ifs <;> simp <;> omega

@[simp] theorem exactPayload_length (p : Bytes) : exactPayload p.length p = .ok p :=
  exactPayload_eq_ok_iff.mpr ⟨rfl, rfl⟩

theorem requestHeader_eq_ok_iff {h : Header} {u : Unit} :
    requestHeader h = .ok u ↔ h.start = Config.startSent ∧ h.dir = Config.dirReq := by
  unfold requestHeader
  split_ifs <;> simp_all

theorem responseHeader_eq_ok_iff {h : Header} {u : Unit} :
    responseHeader h = .ok u ↔ h.start = Config.startRecv := by
  unfold responseHeader
  split_ifs <;> simp_all

@[simp] theorem requestHeader_sent (o : Byte) (n : Nat) :
    requestHeader ⟨Config.startSent, o, Config.dirReq, n⟩ = .ok () := rfl

@[simp] theorem responseHeader_recv (o d : Byte) (n : Nat) :
    responseHeader ⟨Config.startRecv, o, d, n⟩ = .ok () := rfl

/-- A 16-bit field of two bytes, read back. -/
@[simp] theorem ofNat_ube_half (n : Half) : BitVec.ofNat 16 (ube [n.extractLsb' 8 8, n.extractLsb' 0 8]) = n := by
  rw [← be_half, ube_be, Nat.mod_eq_of_lt n.isLt, BitVec.ofNat_toNat, BitVec.setWidth_eq]

/-- The bytes of a 16-bit field, from the bytes it was read from. -/
@[simp] theorem be_ofNat_ube_pair (x y : Byte) : be (BitVec.ofNat 16 (ube [x, y])).toNat 2 = [x, y] := by
  rw [BitVec.toNat_ofNat, Nat.mod_eq_of_lt (show ube [x, y] < 2 ^ 16 from ube_lt [x, y])]
  exact be_ube [x, y]

/-- A received frame is kept whole. -/
theorem decode_response {b : Bytes} (hwf : responseShaped b) :
    decode (.frame .response) b = .ok (.decodeResponse b) := by
  obtain ⟨hlow, hhigh, hhead⟩ := hwf
  obtain _ | ⟨s, _ | ⟨o, _ | ⟨d, _ | ⟨h, _ | ⟨l, rest⟩⟩⟩⟩⟩ := b
  case cons.cons.cons.cons.cons =>
    obtain rfl : s = Config.startRecv := by simpa using hhead
    simp only [decode, splitHeader, decodeFrame, responseHeader_recv, bind, Except.bind]
    exact if_pos hhigh
  all_goals simp [Config.headerSize] at hlow

theorem decode_chunkRequest (c : Byte) (n k : Half) {data : Bytes} (hwf : chunkFits data) :
    decode (.frame .chunkRequest) (frameBody Config.startSent c Config.dirReq (be n.toNat 2 ++ be k.toNat 2 ++ data)) =
      .ok (.fwChunkRequest c n k data) := by
  obtain ⟨hsome, hfits⟩ := hwf
  obtain _ | ⟨x, data⟩ := data
  · contradiction
  · rw [decode_frameBody _ _ _ _ (by simp at hfits ⊢; omega)]
    simp only [decodeFrame, requestHeader_sent, exactPayload_length, be_half]
    simp [bind, Except.bind]

theorem decode_reserved (x : BitVec 3) : decode .cmd4 (cmdByte (1#1 ++ x)) = .ok (.reserved8ToF x) := by
  revert x
  decide

/-- Settles O4: a command's code is decoded by the table of R104; a frame's header splits off again, the row's tests
hold, and the operand fields are read back from the bytes they were written to. -/
theorem decodeEncodeAgree : Obligations.DecodeEncodeAgree := by
  intro i hwf
  cases i with
  | nop => rfl
  | openBus => rfl
  | read => rfl
  | writeValue => rfl
  | writeBytes => rfl
  | fwUpdate => rfl
  | progressTake => rfl
  | reserved7 => rfl
  | reserved8ToF x => exact decode_reserved x
  | ser s o d p =>
    rw [encode, decode_frameBody _ _ _ _ (of_decide_eq_true hwf), decodeFrame, exactPayload_length]
    rfl
  | encodeRequest o p =>
    rw [encode, decode_frameBody _ _ _ _ (of_decide_eq_true hwf), decodeFrame, exactPayload_length]
    rfl
  | decodeResponse b => exact decode_response (of_decide_eq_true hwf)
  | fwChunkRequest c n k data => exact decode_chunkRequest c n k (of_decide_eq_true hwf)
  | fwChunkReply o d r =>
    rw [encode, decode_frameBody _ _ _ _ (by simp)]
    simp [decodeFrame, be_half, bind, Except.bind, exactPayload]
  | clearStorageRequest c => exact decode_frameBody _ _ _ _ (Nat.zero_le _)
  | clearStorageReply o d st => exact decode_frameBody _ _ _ _ (by simp)
  | resetForBootRequest c => exact decode_frameBody _ _ _ _ (Nat.zero_le _)
  | resetMcuRequest c => exact decode_frameBody _ _ _ _ (Nat.zero_le _)

/-- A command byte that decodes is the byte of the command's code (R104). -/
theorem encode_decodeCmd (c : BitVec 4) : encode (decodeCmd c) = (.cmd4, cmdByte c) ∧ (decodeCmd c).wf = true := by
  revert c
  decide

/-- A computation in two parts succeeds when both parts do. -/
theorem bind_eq_ok_iff {α β : Type} {x : Except DecodeError α} {f : α → Except DecodeError β} {b : β} :
    x >>= f = .ok b ↔ ∃ a, x = .ok a ∧ f a = .ok b := by
  cases x <;> simp [bind, Except.bind]

section
variable {h : Header} {rest : Bytes} {f : Bytes → Except DecodeError Instr} {i : Instr}

/-- A request row reads its operands from exactly the payload behind a request header. -/
theorem requestRow_eq_ok_iff : (do requestHeader h; let p ← exactPayload h.len rest; f p) = .ok i ↔
    h.start = Config.startSent ∧ h.dir = Config.dirReq ∧ rest.length = h.len ∧ f rest = .ok i := by
  simp [bind_eq_ok_iff, requestHeader_eq_ok_iff, exactPayload_eq_ok_iff, and_assoc]

/-- A reply row reads its operands from exactly the `n` payload bytes behind a response header. -/
theorem replyRow_eq_ok_iff {n : Nat} :
    (do responseHeader h; if h.len ≠ n then .error .badLength else let p ← exactPayload h.len rest; f p) = .ok i ↔
      h.start = Config.startRecv ∧ h.len = n ∧ rest.length = h.len ∧ f rest = .ok i := by
  by_cases hlen : h.len = n <;>
    simp [hlen, bind_eq_ok_iff, responseHeader_eq_ok_iff, exactPayload_eq_ok_iff, and_assoc]

theorem emptyRequest_eq_ok_iff {g : Byte → Instr} : decodeEmptyRequest h rest g = .ok i ↔
    h.start = Config.startSent ∧ h.dir = Config.dirReq ∧ rest.length = h.len ∧ rest = [] ∧ g h.opcode = i := by
  unfold decodeEmptyRequest
  by_cases hlen : h.len = 0
  · simp +contextual [hlen, bind_eq_ok_iff, requestHeader_eq_ok_iff, exactPayload_eq_ok_iff, and_assoc]
  · simp only [hlen, bind_eq_ok_iff, ne_eq, not_false_eq_true, if_true, reduceCtorEq, and_false, exists_false,
      false_iff]
    rintro ⟨-, -, hlen', rfl, -⟩
    exact hlen hlen'.symm

end

section
variable {h : Header} {rest b : Bytes} {i : Instr}

/-- A header and the bytes its length field counts are a frame's body. -/
theorem frameBody_of_header (hlen : rest.length = h.len) :
    headerBytes h.start h.opcode h.dir h.len ++ rest = frameBody h.start h.opcode h.dir rest := by
  rw [frameBody, hlen]

theorem frameBody_of_emptyRequest {g : Byte → Instr} (hdec : decodeEmptyRequest h rest g = .ok i) :
    i = g h.opcode ∧ headerBytes h.start h.opcode h.dir h.len ++ rest =
      frameBody Config.startSent h.opcode Config.dirReq [] := by
  obtain ⟨hstart, hdir, hlen, rfl, rfl⟩ := emptyRequest_eq_ok_iff.mp hdec
  exact ⟨rfl, by rw [frameBody_of_header hlen, hstart, hdir]⟩

/-- What a row of the decoder has read is an instruction whose encoding is the header and the bytes behind it. -/
theorem encode_of_decodeFrame {r : Role} (hfield : h.len < 2 ^ 16)
    (hdec : decodeFrame r h rest (headerBytes h.start h.opcode h.dir h.len ++ rest) = .ok i) :
    encode i = (.frame r, headerBytes h.start h.opcode h.dir h.len ++ rest) ∧ i.wf = true := by
  cases r with
  | serialize =>
    obtain ⟨p, hp, ⟨⟩⟩ := bind_eq_ok_iff.mp hdec
    obtain ⟨rfl, hlen⟩ := exactPayload_eq_ok_iff.mp hp
    rw [frameBody_of_header hlen]
    exact ⟨rfl, decide_eq_true (show rest.length ≤ 65535 by omega)⟩
  | request =>
    obtain ⟨hstart, hdir, hlen, ⟨⟩⟩ := requestRow_eq_ok_iff.mp hdec
    rw [frameBody_of_header hlen, hstart, hdir]
    exact ⟨rfl, decide_eq_true (show rest.length ≤ 65535 by omega)⟩
  | response =>
    obtain ⟨⟨⟩, hheader, hkeep⟩ := bind_eq_ok_iff.mp hdec
    have hstart := responseHeader_eq_ok_iff.mp hheader
    split_ifs at hkeep with hshort
    cases hkeep
    have hlow : Config.headerSize ≤ (headerBytes h.start h.opcode h.dir h.len ++ rest).length := by
      simp [headerBytes, Config.headerSize]
    exact ⟨rfl, decide_eq_true ⟨hlow, hshort, congrArg some hstart⟩⟩
  | chunkRequest =>
    obtain ⟨hstart, hdir, hlen, hoperands⟩ := requestRow_eq_ok_iff.mp hdec
    rw [frameBody_of_header hlen, hstart, hdir]
    split at hoperands
    next c1 c0 k1 k0 x data =>
      cases hoperands
      simp only [List.length_cons] at hlen
      have hshape : chunkFits (x :: data) := ⟨Nat.succ_pos _, by rw [List.length_cons]; omega⟩
      exact ⟨by simp only [encode, be_ofNat_ube_pair]; rfl, decide_eq_true hshape⟩
    next => contradiction
  | chunkReply =>
    obtain ⟨hstart, -, hlen, hoperands⟩ := replyRow_eq_ok_iff.mp hdec
    rw [frameBody_of_header hlen, hstart]
    split at hoperands
    next =>
      cases hoperands
      exact ⟨by simp only [encode, be_ofNat_ube_pair], rfl⟩
    next => contradiction
  | clearReply =>
    obtain ⟨hstart, -, hlen, hoperands⟩ := replyRow_eq_ok_iff.mp hdec
    rw [frameBody_of_header hlen, hstart]
    split at hoperands
    next =>
      cases hoperands
      exact ⟨rfl, rfl⟩
    next => contradiction
  | clearRequest =>
    obtain ⟨rfl, hbody⟩ := frameBody_of_emptyRequest hdec
    exact ⟨by rw [hbody]; rfl, rfl⟩
  | bootRequest =>
    obtain ⟨rfl, hbody⟩ := frameBody_of_emptyRequest hdec
    exact ⟨by rw [hbody]; rfl, rfl⟩
  | mcuResetRequest =>
    obtain ⟨rfl, hbody⟩ := frameBody_of_emptyRequest hdec
    exact ⟨by rw [hbody]; rfl, rfl⟩

end

/-- A byte that holds a 4-bit code is that code's byte. -/
theorem cmdByte_setWidth {c : Byte} (hc : c.toNat < 16) : cmdByte (c.setWidth 4) = [c] := by
  rw [cmdByte]
  congr 1
  apply BitVec.eq_of_toNat_eq
  simp only [BitVec.toNat_setWidth]
  omega

/-- Settles O5: a command byte is its code's byte, and what a row of the frame decoder has read determines every
byte. -/
theorem encodeDecodeAgree : Obligations.EncodeDecodeAgree := by
  intro f b i hdec
  unfold decode at hdec
  split at hdec
  case h_1 =>
    split at hdec
    · contradiction
    · split_ifs at hdec with hc
      cases hdec
      rw [← cmdByte_setWidth hc]
      exact encode_decodeCmd _
    · contradiction
  case h_2 r =>
    split at hdec
    next => contradiction
    next h rest hsplit =>
      obtain ⟨rfl, hfield⟩ := eq_headerBytes_append_of_splitHeader hsplit
      exact encode_of_decodeFrame hfield hdec

end Sys2Proof.Machine
end

section
/-! The words of the opcode table (log entries 17, 18): what they decode to, and that a placed one is run next. -/

namespace Sys2Proof.Machine

/-- Settles O3: the decoder evaluated on five words of the table. -/
theorem tableWordsDecode : Obligations.TableWordsDecode := by
  unfold Obligations.TableWordsDecode
  decide

/-- What a table word decodes to is well formed. -/
theorem wf_of_decodeTableWord {nbits w : Nat} {i : Instr} (hdec : decodeTableWord nbits w = some i) :
    i.wf = true := by
  have hwf {f : Format} {b : Bytes} (h : (decode f b).toOption = some i) : i.wf = true := by
    cases hd : decode f b with
    | error e => rw [hd] at h; contradiction
    | ok j => rw [hd] at h; cases h; exact (encodeDecodeAgree f b i hd).2
  unfold decodeTableWord at hdec
  split_ifs at hdec
  · exact hwf hdec
  · split at hdec
    · exact hwf hdec
    · contradiction

theorem decodeCmd_of_cmdCode {i : Instr} {c : BitVec 4} (hc : cmdCode i = some c) : decodeCmd c = i := by
  have hreserved : ∀ x : BitVec 3, decodeCmd (1#1 ++ x) = .reserved8ToF x := by decide
  cases i with
  | reserved8ToF x => cases hc; exact hreserved x
  | _ => cases hc <;> rfl

/-- Placing an operation writes `BUSY`, the place and the receive buffer only. -/
theorem placeOp_frame (i : Instr) (s : State) :
    (placeOp i s).params = s.params ∧ (placeOp i s).img = s.img ∧ (placeOp i s).regs = s.regs ∧
      (placeOp i s).res = s.res ∧ (placeOp i s).fw = s.fw ∧ (placeOp i s).env = s.env ∧ (placeOp i s).cmd = s.cmd := by
  unfold placeOp
  split <;> exact ⟨rfl, rfl, rfl, rfl, rfl, rfl, rfl⟩

/-- The engine runs the operation placed before it. -/
theorem engineStep_placeOp {i : Instr} (hwf : i.wf = true) (s : State) :
    engineStep (placeOp i s) = exec i (placeOp i s) := by
  unfold placeOp
  split
  next b =>
    obtain ⟨-, hlen, -⟩ : responseShaped b := of_decide_eq_true hwf
    have hrlen : (BitVec.ofNat 16 b.length).toNat = b.length := Nat.mod_eq_of_lt (by omega)
    rw [engineStep_check rfl, received, hrlen, List.take_length]
  next => rfl

/-- Whether the host has no move or passes, the step after `engineTurn` is the engine's (log entry 5). -/
theorem step_placeOp_engineTurn (i : Instr) (s : State) :
    step (placeOp i (engineTurn s)) = engineStep (placeOp i (dropCmd s)) := by
  obtain ⟨-, -, -, -, -, henv, hcmd⟩ := placeOp_frame i (engineTurn s)
  have hnone : (placeOp i (engineTurn s)).cmd = none := by
    rw [hcmd]
    unfold engineTurn
    split <;> rfl
  cases hq : s.env.inputs with
  | nil =>
    have hturn : engineTurn s = dropCmd s := by simp [engineTurn, hq, dropCmd]
    rw [hturn] at hnone henv ⊢
    exact step_quiet ⟨hnone, by rw [henv]; exact hq⟩
  | cons m q =>
    have hturn : engineTurn s = { dropCmd s with env := { s.env with inputs := .pass :: m :: q } } := by
      simp [engineTurn, hq, dropCmd]
    rw [hturn] at hnone henv ⊢
    rw [step_of_move hnone (congrArg Env.inputs henv), hostMove, henv]
    congr 1
    unfold placeOp
    split <;> simp [← hq]

/-- Settles O2: a command code in `CMD` is acted on first; an operation of a `FRAME` row is placed before the engine,
which has the turn. -/
theorem placedWordIsRunNext : Obligations.PlacedWordIsRunNext := by
  intro s nbits w i hdec
  unfold State.withFetchWord
  cases hcode : cmdCode i with
  | some c =>
    have hplace : placeWord nbits w s = { s with cmd := some c } := by simp [placeWord, hdec, hcode]
    refine ⟨dropCmd s, ?_, rfl, rfl, rfl, rfl, rfl, rfl, rfl⟩
    rw [hplace, ← decodeCmd_of_cmdCode hcode]
    exact step_of_cmd (s := { s with cmd := some c }) rfl
  | none =>
    have hplace : placeWord nbits w s = placeOp i (engineTurn s) := by simp [placeWord, hdec, hcode]
    obtain ⟨hparams, himg, hregs, hres, hfw, henv, hcmd⟩ := placeOp_frame i (dropCmd s)
    refine ⟨placeOp i (dropCmd s), ?_, hparams, himg, hregs, hres, hfw, congrArg Env.trace henv, hcmd⟩
    rw [hplace]
    exact (step_placeOp_engineTurn i s).trans (engineStep_placeOp (wf_of_decodeTableWord hdec) _)

end Sys2Proof.Machine
end

section
/-! The pseudocode of `EXECUTE` run in one go (R175): its equations, and what it leaves alone. -/

namespace Sys2Proof.Machine

/-- The backoff of a failed attempt. -/
def backedOff (s : State) : State := slept .backoff (setRState .backoff s)

/-- The registers at the send of the next attempt. -/
def nextAttempt (s : State) : State :=
  { s with seq := { s.seq with attempt := s.seq.attempt + 1, rstate := .send } }

section
variable {s t : State}

theorem executeLoop_of_accepted {f : Frame} (n : Nat) (h : attemptOnce s = (t, some f)) :
    executeLoop (n + 1) s = (t, some f) := by
  simp [executeLoop, h]

theorem executeLoop_of_exhausted (h : attemptOnce s = (t, none)) : executeLoop 1 s = (backedOff t, none) := by
  simp [executeLoop, h, backedOff]

theorem executeLoop_of_failed (n : Nat) (h : attemptOnce s = (t, none)) :
    executeLoop (n + 2) s = executeLoop (n + 1) (nextAttempt (backedOff t)) := by
  rw [executeLoop, h]
  rfl

theorem attemptOnce_of_fault (h : nextAck s = .fault) :
    attemptOnce s = (slept (.wait .fault) (setRState .wait (tWrite (toSend s) s)), none) := by
  simp [attemptOnce, h]

theorem attemptOnce_of_ok (h : nextAck s = .ok) :
    attemptOnce s = readAndDecode (slept (.wait .ok) (setRState .wait (tWrite (toSend s) s))) := by
  simp [attemptOnce, h]

end

@[simp] theorem fillRbuf_xTimeout (a : ReadAns) (r : Sequencer) : (fillRbuf a r).xTimeout = r.xTimeout := by
  cases a <;> rfl
@[simp] theorem fillRbuf_txbuf (a : ReadAns) (r : Sequencer) : (fillRbuf a r).txbuf = r.txbuf := by
  cases a <;> rfl
@[simp] theorem fillRbuf_txlen (a : ReadAns) (r : Sequencer) : (fillRbuf a r).txlen = r.txlen := by
  cases a <;> rfl

/-- What an exchange leaves alone until its outcome is given to the caller, and the delay it goes on with. -/
structure WithinExchange (s t : State) : Prop where
  outside : SameOutside s t
  fw : t.fw = s.fw
  res : t.res = s.res
  pos : t.pos = s.pos
  timeout : t.seq.xTimeout = s.seq.xTimeout

theorem SameOutside.refl (s : State) : SameOutside s s := ⟨rfl, rfl, rfl, rfl, rfl⟩

theorem SameOutside.trans {s t u : State} (h : SameOutside s t) (h' : SameOutside t u) : SameOutside s u := by
  obtain ⟨hparams, himg, hregs, hcmd, hinputs⟩ := h
  obtain ⟨hparams', himg', hregs', hcmd', hinputs'⟩ := h'
  exact ⟨hparams'.trans hparams, himg'.trans himg, hregs'.trans hregs, hcmd'.trans hcmd, hinputs'.trans hinputs⟩

theorem SameOutside.quiet {s t : State} (h : SameOutside s t) (hquiet : Quiet s) : Quiet t := by
  obtain ⟨-, -, -, hcmd, hinputs⟩ := h
  exact ⟨hcmd.trans hquiet.1, hinputs.trans hquiet.2⟩

namespace WithinExchange
variable {s t u : State}

theorem trans (h : WithinExchange s t) (h' : WithinExchange t u) : WithinExchange s u where
  outside := h.outside.trans h'.outside
  fw := h'.fw.trans h.fw
  res := h'.res.trans h.res
  pos := h'.pos.trans h.pos
  timeout := h'.timeout.trans h.timeout

theorem backedOff (s : State) : WithinExchange s (Machine.backedOff s) :=
  ⟨⟨rfl, rfl, rfl, rfl, rfl⟩, rfl, rfl, rfl, rfl⟩

theorem nextAttempt (s : State) : WithinExchange s (Machine.nextAttempt s) :=
  ⟨⟨rfl, rfl, rfl, rfl, rfl⟩, rfl, rfl, rfl, rfl⟩

theorem sent (s : State) (a : Ack) :
    WithinExchange s (slept (.wait a) (setRState .wait (tWrite (toSend s) s))) := by
  constructor <;> simp [SameOutside, slept]

theorem readAndDecode (s : State) : WithinExchange s (Machine.readAndDecode s).1 := by
  constructor <;> simp [SameOutside, Machine.readAndDecode]

theorem attemptOnce (s : State) : WithinExchange s (Machine.attemptOnce s).1 := by
  cases hack : nextAck s with
  | fault => rw [attemptOnce_of_fault hack]; exact sent s .fault
  | ok => rw [attemptOnce_of_ok hack]; exact (sent s .ok).trans (readAndDecode _)

end WithinExchange

/-- An attempt does not count the attempts. -/
theorem attemptOnce_attempt (s : State) : (attemptOnce s).1.seq.attempt = s.seq.attempt := by
  cases hack : nextAck s with
  | fault => rw [attemptOnce_of_fault hack]; simp [slept]
  | ok => rw [attemptOnce_of_ok hack]; simp [readAndDecode, slept]

end Sys2Proof.Machine
end

section
/-! The step-by-step sequencer against the pseudocode (R175): what one attempt leads to, and the whole exchange by
induction on the attempts left. The place the pseudocode does not have is overwritten at each of these steps. -/

namespace Sys2Proof.Machine

/-- What the sequencer does with the outcome of an attempt: the frame goes to the caller, else the backoff is next. -/
def afterAttempt (r : State × Option Frame) : State :=
  match r.2 with
  | some f => returnFrame f r.1
  | none => attemptFailed r.1

@[simp] theorem afterAttempt_some (t : State) (f : Frame) : afterAttempt (t, some f) = returnFrame f t := rfl
@[simp] theorem afterAttempt_none (t : State) : afterAttempt (t, none) = attemptFailed t := rfl
@[simp] theorem giveBack_some (t : State) (f : Frame) : giveBack (t, some f) = returnFrame f t := rfl
@[simp] theorem giveBack_none (t : State) : giveBack (t, none) = returnNone t := rfl

section
variable (p : Pos) (s : State)

theorem returnFrame_goto (f : Frame) : returnFrame f (goto p s) = returnFrame f s := by
  unfold returnFrame
  rw [show caller (goto p s) = caller s from rfl]
  split
  · rfl
  · split <;> rfl
  · rfl

theorem returnNone_goto : returnNone (goto p s) = returnNone s := by
  unfold returnNone
  rw [show caller (goto p s) = caller s from rfl]
  split <;> rfl

theorem goto_self {s : State} (hpos : s.pos = p) : goto p s = s := by
  subst hpos
  rfl

theorem tRead_goto (n : Nat) : tRead n (goto p s) = goto p (tRead n s) := by
  unfold tRead dropRead
  cases hq : s.env.readQ <;> simp [hq, goto, emit, nextRead]

/-- The read step of the sequencer is the pseudocode's read. -/
theorem recvResponse_goto : recvResponse (goto p (setRState .read s)) = goto .check (readAndDecode s).1 := by
  unfold recvResponse
  rw [tRead_goto]
  rfl

end

/-- The decoding step of the sequencer is the pseudocode's decoding. -/
theorem engineStep_decoding (s : State) :
    engineStep (goto .check (readAndDecode s).1) = .next (afterAttempt (readAndDecode s)) := by
  have hdec : decodeResponse (goto .check (readAndDecode s).1).params (received (goto .check (readAndDecode s).1))
      (goto .check (readAndDecode s).1).seq.xRsize = (readAndDecode s).2 := rfl
  rw [engineStep_check rfl]
  cases hout : (readAndDecode s).2 with
  | none =>
    rw [exec_decodeResponse_rejected (hdec.trans hout), afterAttempt, hout]
    rfl
  | some f => rw [exec_decodeResponse_accepted (hdec.trans hout), returnFrame_goto, afterAttempt, hout]

/-- The read and the decoding of an attempt, step by step. -/
theorem reaches_afterRead {s : State} (hquiet : Quiet s) :
    Reaches (goto .recv (setRState .read s)) (afterAttempt (readAndDecode s)) := by
  have hread : engineStep (goto .recv (setRState .read s)) = .next (goto .check (readAndDecode s).1) := by
    rw [engineStep_recv rfl, recvResponse_goto]
  have hquiet' : Quiet (goto .check (readAndDecode s).1) := (WithinExchange.readAndDecode s).outside.quiet hquiet
  have hrun := (Reaches.refl (goto .recv (setRState .read s))).engineStep hquiet hread
  exact hrun.engineStep hquiet' (engineStep_decoding s)

/-- One attempt, step by step. -/
theorem reaches_afterAttempt {s : State} (hquiet : Quiet s) (hpos : s.pos = .send) :
    Reaches s (afterAttempt (attemptOnce s)) := by
  have hsend : Reaches s (sendRequest s) := (Reaches.refl s).engineStep hquiet (engineStep_send hpos)
  have hquiet' (a : Ack) : Quiet (slept (.wait a) (setRState .wait (tWrite (toSend s) s))) :=
    (WithinExchange.sent s a).outside.quiet hquiet
  have hdelay : Reaches s (endSleep (.wait (nextAck s)) (goto (.sleeping (.wait (nextAck s)))
      (slept (.wait (nextAck s)) (sendRequest s)))) := hsend.trans ⟨_, runFor_sleep (hquiet' (nextAck s)) rfl⟩
  cases hack : nextAck s with
  | fault =>
    rw [hack] at hdelay
    rw [attemptOnce_of_fault hack]
    exact hdelay
  | ok =>
    rw [hack] at hdelay
    rw [attemptOnce_of_ok hack]
    exact hdelay.trans (reaches_afterRead (hquiet' .ok))

/-- The backoff of a failed attempt, step by step. -/
theorem reaches_afterBackoff {t : State} (hquiet : Quiet t) :
    Reaches (attemptFailed t) (afterBackoff (goto (.sleeping .backoff) (backedOff t))) :=
  ⟨_, runFor_sleep (s := attemptFailed t) (n := .backoff) hquiet rfl⟩

/-- A failed attempt and its backoff, step by step. -/
theorem reaches_afterBackoff_of_failed {s t : State} (hquiet : Quiet s) (hpos : s.pos = .send)
    (hout : attemptOnce s = (t, none)) : Reaches s (afterBackoff (goto (.sleeping .backoff) (backedOff t))) := by
  have hwithin : WithinExchange s t := by simpa [hout] using WithinExchange.attemptOnce s
  have hrun := reaches_afterAttempt hquiet hpos
  rw [hout, afterAttempt_none] at hrun
  exact hrun.trans (reaches_afterBackoff (hwithin.outside.quiet hquiet))

/-- An attempt that is answered ends the exchange, whatever attempts are left. -/
theorem reaches_giveBack_of_accepted {s t : State} {f : Frame} (n : Nat) (hquiet : Quiet s) (hpos : s.pos = .send)
    (hout : attemptOnce s = (t, some f)) : Reaches s (giveBack (executeLoop (n + 1) s)) := by
  rw [executeLoop_of_accepted n hout, giveBack_some, ← afterAttempt_some, ← hout]
  exact reaches_afterAttempt hquiet hpos

/-- The exchange from any attempt on, by induction on the attempts left after it. -/
theorem reaches_giveBack {s : State} (n : Nat) (hquiet : Quiet s) (hpos : s.pos = .send)
    (hleft : s.seq.attempt.toNat + n = 9) : Reaches s (giveBack (executeLoop (n + 1) s)) := by
  induction n generalizing s with
  | zero =>
    obtain ⟨⟨t, _ | f⟩, hout⟩ : ∃ r, attemptOnce s = r := ⟨_, rfl⟩
    · have hrun := reaches_afterBackoff_of_failed hquiet hpos hout
      have hsame : t.seq.attempt = s.seq.attempt := by rw [← attemptOnce_attempt s, hout]
      have hlast : (goto (.sleeping .backoff) (backedOff t)).seq.attempt.toNat = 9 := by
        change t.seq.attempt.toNat = 9
        rw [hsame, ← hleft, Nat.add_zero]
      rw [afterBackoff_of_exhausted hlast, returnNone_goto] at hrun
      rwa [executeLoop_of_exhausted hout]
    · exact reaches_giveBack_of_accepted 0 hquiet hpos hout
  | succ n ih =>
    obtain ⟨⟨t, _ | f⟩, hout⟩ : ∃ r, attemptOnce s = r := ⟨_, rfl⟩
    · have hrun := reaches_afterBackoff_of_failed hquiet hpos hout
      have hwithin : WithinExchange s t := by simpa [hout] using WithinExchange.attemptOnce s
      have hsame : t.seq.attempt = s.seq.attempt := by rw [← attemptOnce_attempt s, hout]
      have hmore : (goto (.sleeping .backoff) (backedOff t)).seq.attempt.toNat ≠ 9 := by
        change t.seq.attempt.toNat ≠ 9
        rw [hsame]; omega
      rw [afterBackoff_of_attempts_left hmore] at hrun
      have hnext : Reaches s (nextAttempt (backedOff t)) := by
        rw [← goto_self (p := .send) (hwithin.pos.trans hpos)]
        exact hrun
      rw [executeLoop_of_failed n hout]
      refine hnext.trans (ih (hwithin.outside.quiet hquiet) (hwithin.pos.trans hpos) ?_)
      change (t.seq.attempt + 1).toNat + n = 9
      rw [hsame]
      bv_omega
    · exact reaches_giveBack_of_accepted (n + 1) hquiet hpos hout

/-- Settles O31: the attempts left are those of the loop. -/
theorem sequencerRefinesTheExecuteLoop : Obligations.SequencerRefinesTheExecuteLoop := by
  intro s hquiet hpos hattempt
  obtain ⟨n, hn⟩ := Nat.exists_eq_add_of_le hattempt
  have hleft : 10 - s.seq.attempt.toNat = n + 1 := by omega
  rw [hleft]
  exact reaches_giveBack n hquiet hpos hn.symm

end Sys2Proof.Machine
end

section
/-! The events of an exchange counted (R178, R286). -/

namespace Sys2Proof.Machine

theorem countW_append (es es' : List Event) : countW (es ++ es') = countW es + countW es' := by
  simp [countW_eq_length_framesIn]

theorem countR_append (es es' : List Event) : countR (es ++ es') = countR es + countR es' := by
  induction es with
  | nil => simp [countR]
  | cons e es ih => cases e <;> simp [countR, ih]; omega

theorem sleepTotal_append (k : SleepKind) (es es' : List Event) :
    sleepTotal k (es ++ es') = sleepTotal k es + sleepTotal k es' := by
  induction es with
  | nil => simp [sleepTotal]
  | cons e es ih => cases e <;> simp [sleepTotal, ih]; omega

/-- The read of an attempt whose send was answered `a`: none after a fault (D8). -/
def readEvents (a : Ack) (s : State) : List Event :=
  match a with
  | .fault => []
  | .ok => [.r s.seq.xRsize.toNat
      (nextRead s.seq.xRsize.toNat (slept (.wait .ok) (setRState .wait (tWrite (toSend s) s))))]

/-- The events of one attempt. -/
def eventsOfAttempt (s : State) : List Event :=
  .w (toSend s) (nextAck s) :: .s .wait s.seq.xTimeout :: readEvents (nextAck s) s

theorem attemptOnce_trace (s : State) :
    (attemptOnce s).1.env.trace = s.env.trace ++ eventsOfAttempt s := by
  unfold eventsOfAttempt
  cases hack : nextAck s with
  | fault => rw [attemptOnce_of_fault hack]; simp [slept, readEvents, napKind, napMs, hack]
  | ok =>
    rw [attemptOnce_of_ok hack]
    simp [readAndDecode, slept, readEvents, napKind, napMs, hack]
    rfl

@[simp] theorem backedOff_trace (s : State) :
    (backedOff s).env.trace = s.env.trace ++ [.s .backoff Config.backoffMs] := rfl

/-- The sends, reads and sleeps in the events of a stretch of an exchange with the delay `ms`. -/
structure Tally (ms : Word32) (sends backoffs : Nat) (es : List Event) : Prop where
  writes : countW es = sends
  reads : countR es ≤ sends
  waits : sleepTotal .wait es = sends * ms.toNat
  backoffs : sleepTotal .backoff es = backoffs * 100
  settles : sleepTotal .settle es = 0

theorem Tally.append {ms : Word32} {m n j k : Nat} {es es' : List Event} (h : Tally ms m j es)
    (h' : Tally ms n k es') : Tally ms (m + n) (j + k) (es ++ es') where
  writes := by rw [countW_append, h.writes, h'.writes]
  reads := by rw [countR_append]; exact Nat.add_le_add h.reads h'.reads
  waits := by rw [sleepTotal_append, h.waits, h'.waits, Nat.add_mul]
  backoffs := by rw [sleepTotal_append, h.backoffs, h'.backoffs, Nat.add_mul]
  settles := by rw [sleepTotal_append, h.settles, h'.settles]

/-- An attempt makes one send, one delay and at most one read. -/
theorem tally_attempt (s : State) : Tally s.seq.xTimeout 1 0 (eventsOfAttempt s) := by
  unfold eventsOfAttempt
  cases nextAck s <;> constructor <;> simp [readEvents, countW, countR, sleepTotal]

theorem tally_backoff (ms : Word32) : Tally ms 0 1 [.s .backoff Config.backoffMs] := by
  constructor <;> simp [countW, countR, sleepTotal, Config.backoffMs]

/-- The outcome `r` of an exchange of at most `n` attempts begun in `s`: its events are those of the attempts it counts,
a backoff after each but an answered one. -/
def Bounded (n : Nat) (s : State) (r : State × Option Frame) : Prop :=
  WithinExchange s r.1 ∧ ∃ es m, r.1.env.trace = s.env.trace ++ es ∧ m < n ∧
    r.1.seq.attempt.toNat = s.seq.attempt.toNat + m ∧
    Tally s.seq.xTimeout (m + 1) (if r.2 = none then n else m) es ∧ (r.2 = none → m + 1 = n)

section
variable {s t : State}

theorem withinExchange_of_attemptOnce {r : Option Frame} (hout : attemptOnce s = (t, r)) : WithinExchange s t := by
  simpa [hout] using WithinExchange.attemptOnce s

theorem attempt_of_attemptOnce {r : Option Frame} (hout : attemptOnce s = (t, r)) :
    t.seq.attempt = s.seq.attempt := by
  rw [← attemptOnce_attempt s, hout]

theorem trace_of_attemptOnce {r : Option Frame} (hout : attemptOnce s = (t, r)) :
    t.env.trace = s.env.trace ++ eventsOfAttempt s := by
  rw [← attemptOnce_trace, hout]

theorem bounded_of_accepted {f : Frame} (n : Nat) (hout : attemptOnce s = (t, some f)) :
    Bounded (n + 1) s (t, some f) :=
  ⟨withinExchange_of_attemptOnce hout, _, 0, trace_of_attemptOnce hout, n.succ_pos,
    congrArg BitVec.toNat (attempt_of_attemptOnce hout), tally_attempt s, nofun⟩

/-- The events of a failed attempt, with its backoff. -/
theorem backedOff_trace_of_failed (hout : attemptOnce s = (t, none)) : (backedOff t).env.trace =
    s.env.trace ++ (eventsOfAttempt s ++ [.s .backoff Config.backoffMs]) := by
  rw [backedOff_trace, trace_of_attemptOnce hout, List.append_assoc]

theorem tally_failed (s : State) :
    Tally s.seq.xTimeout 1 1 (eventsOfAttempt s ++ [.s .backoff Config.backoffMs]) :=
  (tally_attempt s).append (tally_backoff _)

theorem bounded_of_exhausted (hout : attemptOnce s = (t, none)) : Bounded 1 s (backedOff t, none) :=
  ⟨(withinExchange_of_attemptOnce hout).trans (.backedOff t), _, 0, backedOff_trace_of_failed hout, Nat.one_pos,
    congrArg BitVec.toNat (attempt_of_attemptOnce (t := t) hout), tally_failed s, fun _ => rfl⟩

/-- A failed attempt before an exchange of `n` attempts makes it one of `n + 1`. -/
theorem Bounded.retry {n : Nat} {r : State × Option Frame} (hout : attemptOnce s = (t, none))
    (hleft : s.seq.attempt.toNat < 9) (h : Bounded n (nextAttempt (backedOff t)) r) : Bounded (n + 1) s r := by
  have hwithin : WithinExchange s (nextAttempt (backedOff t)) :=
    ((withinExchange_of_attemptOnce hout).trans (.backedOff t)).trans (.nextAttempt _)
  have hattempt : (nextAttempt (backedOff t)).seq.attempt.toNat = s.seq.attempt.toNat + 1 := by
    change (t.seq.attempt + 1).toNat = _
    rw [attempt_of_attemptOnce hout]
    bv_omega
  obtain ⟨hwithin', es, m, htrace, hm, hcount, htally, hnone⟩ := h
  refine ⟨hwithin.trans hwithin', (eventsOfAttempt s ++ [.s .backoff Config.backoffMs]) ++ es, m + 1, ?_,
    Nat.succ_lt_succ hm, by rw [hcount, hattempt]; omega, ?_, fun hr => congrArg Nat.succ (hnone hr)⟩
  · rw [htrace, ← List.append_assoc, ← backedOff_trace_of_failed hout]
    rfl
  · rw [hwithin.timeout] at htally
    convert (tally_failed s).append htally using 1
    · omega
    · split <;> omega

end

theorem executeLoop_bounded {s : State} (n : Nat) (hleft : s.seq.attempt.toNat + n ≤ 9) :
    Bounded (n + 1) s (executeLoop (n + 1) s) := by
  induction n generalizing s with
  | zero =>
    obtain ⟨⟨t, _ | f⟩, hout⟩ : ∃ r, attemptOnce s = r := ⟨_, rfl⟩
    · rw [executeLoop_of_exhausted hout]
      exact bounded_of_exhausted hout
    · rw [executeLoop_of_accepted 0 hout]
      exact bounded_of_accepted 0 hout
  | succ n ih =>
    obtain ⟨⟨t, _ | f⟩, hout⟩ : ∃ r, attemptOnce s = r := ⟨_, rfl⟩
    · rw [executeLoop_of_failed n hout]
      refine (ih ?_).retry hout (by omega)
      change (t.seq.attempt + 1).toNat + n ≤ 9
      rw [attempt_of_attemptOnce hout]
      bv_omega
    · rw [executeLoop_of_accepted (n + 1) hout]
      exact bounded_of_accepted (n + 1) hout

/-- Settles O32: the sequencer reaches what the loop computes, and the loop's events are counted attempt by attempt. -/
theorem exchangeIsBounded : Obligations.ExchangeIsBounded := by
  intro s hquiet hpos hattempt
  have hzero : s.seq.attempt.toNat = 0 := congrArg BitVec.toNat hattempt
  have hrun := reaches_giveBack 9 hquiet hpos (by omega)
  have hbounded := executeLoop_bounded (s := s) 9 (by omega)
  obtain ⟨⟨u, out⟩, hout⟩ : ∃ r, executeLoop (9 + 1) s = r := ⟨_, rfl⟩
  rw [hout] at hrun hbounded
  obtain ⟨hwithin, es, m, htrace, hm, hcount, htally, hnone⟩ := hbounded
  refine ⟨u, out, es, hrun, htrace, hwithin.outside, hwithin.fw, hwithin.res, ?_⟩
  have hwrites := htally.writes
  have hreads := htally.reads
  have hbackoffs := htally.backoffs
  dsimp only at hcount hnone hbackoffs
  refine ⟨by omega, by omega, by omega, by omega, by rw [hwrites, htally.waits], htally.settles, fun hsome => ?answered,
    fun hexhausted => ?exhausted⟩
  case answered => rw [hbackoffs, if_neg hsome, hwrites, Nat.add_sub_cancel]
  case exhausted =>
    obtain rfl : m = 9 := Nat.succ.inj (hnone hexhausted)
    rw [htally.waits, hbackoffs, if_pos hexhausted]
    exact ⟨hwrites, by omega⟩

end Sys2Proof.Machine
end

section
/-! What an instruction can do: one relation for the host commands and one for the `FRAME` rows. `exec` always answers a
next state, and one that its relation lists; the proofs about every instruction are by cases on these. -/

namespace Sys2Proof.Machine

/-- What a host command does to `s` (R26, R104): it is discarded, or issued and perhaps ended at once;
`PROGRESS_TAKE` is acted on while busy too (R220). -/
inductive Commanded (s : State) : Instr → State → Prop
  | discarded (i : Instr) (hbusy : s.busy = true) : Commanded s i s
  | ended (i : Instr) (k : ResKind) (code : Byte) (hk : k = .ok ∨ k = .violation) (hfree : s.busy = false) :
    Commanded s i (endWith k code (issue s))
  | opening (hfree : s.busy = false) : Commanded s .openBus (goto .openCall (issue s))
  | requesting (i : Instr) (o : Byte) (p : Bytes) (hfree : s.busy = false) :
    Commanded s i (goto (.op (.encodeRequest o p)) (issue s))
  | startingSession (hfree : s.busy = false) : Commanded s .fwUpdate
      (goto (.op (.clearStorageRequest s.params.opcClearStorage)) (newSession (issue s)))
  | takenBusy (hbusy : s.busy = true) : Commanded s .progressTake (takeProgress s)
  | takenFree (hfree : s.busy = false) : Commanded s .progressTake (endWith .ok 0x00 (takeProgress (issue s)))

/-- What the operation of a `FRAME` row does to `s`. -/
inductive Operated (s : State) : Instr → State → Prop
  | violated (o : Byte) (p : Bytes) : Operated s (.encodeRequest o p) (raiseViolation .invalidPayloadLength s)
  | requested (o : Byte) (p : Bytes) (haccepted : payloadAccepted s.params s.regs.dPlen p = true) :
    Operated s (.encodeRequest o p) (beginExchange o p s)
  | serialized (st o d : Byte) (p : Bytes) :
    Operated s (.ser st o d p) (loadFrame (serialize s.params st o d p) s)
  | rejected (b : Bytes) : Operated s (.decodeResponse b) (attemptFailed s)
  | accepted (b : Bytes) (f : Frame) : Operated s (.decodeResponse b) (returnFrame f s)
  | eraseRequested (c : Byte) : Operated s (.clearStorageRequest c) (beginExchange c [] s)
  | eraseFailed (o d st : Byte) : Operated s (.clearStorageReply o d st) (abort .storageClearFailed s)
  | eraseThenBoot (o d st : Byte) : Operated s (.clearStorageReply o d st)
      (goto (.op (.resetForBootRequest s.params.opcResetForBoot)) (setFwState .bootRequested s))
  | eraseThenStream (o d st : Byte) : Operated s (.clearStorageReply o d st) (enterStreaming s)
  | bootWritten (c : Byte) : Operated s (.resetForBootRequest c)
      (goto (.startSleep .settle) (tWrite (requestFrame s.params c []) s))
  | chunkRequested (c : Byte) (n k : Half) (data : Bytes) :
    Operated s (.fwChunkRequest c n k data) (beginExchange c (chunkPayload n k data) s)
  | completed (o d : Byte) : Operated s (.fwChunkReply o d Config.sentinel)
      (acknowledge .finalize (setReqId Config.sentinel s))
  | sameAgain (o d : Byte) : Operated s (.fwChunkReply o d s.fw.chunkIndex)
      (goto .loadChunk (setReqId s.fw.chunkIndex s))
  | nextWanted (o d : Byte) (r : Half) (hnext : r.toNat = s.fw.chunkIndex.toNat + 1)
      (hmore : s.fw.chunkIndex.toNat < s.fw.chunkCount.toNat) :
    Operated s (.fwChunkReply o d r) (acknowledge .advance (setReqId r s))
  | uninterpretable (o d : Byte) (r : Half) :
    Operated s (.fwChunkReply o d r) (abort .uninterpretableRequest (setReqId r s))
  | mcuWritten (c : Byte) : Operated s (.resetMcuRequest c)
      (goto .finish (tWrite (requestFrame s.params c []) s))

/-- A command that is issued only while the engine is free (R26). -/
theorem commanded_ifIdle {s : State} {i : Instr} {run : State → State}
    (h : s.busy = false → Commanded s i (run (issue s))) : ∃ t, ifIdle s run = .next t ∧ Commanded s i t := by
  obtain ⟨hbusy, heq⟩ | ⟨hfree, heq⟩ := ifIdle_cases s run
  · exact ⟨s, heq, .discarded i hbusy⟩
  · exact ⟨_, heq, h hfree⟩

theorem exec_commanded {i : Instr} {c : BitVec 4} (hcode : cmdCode i = some c) (s : State) :
    ∃ t, exec i s = .next t ∧ Commanded s i t := by
  cases i with
  | nop => exact commanded_ifIdle (.ended _ _ _ (.inl rfl))
  | openBus => exact commanded_ifIdle .opening
  | read => exact commanded_ifIdle (.requesting _ _ _)
  | writeValue =>
    show ∃ t, execWriteValue s = .next t ∧ Commanded s .writeValue t
    unfold execWriteValue
    split
    · exact commanded_ifIdle (.ended _ _ _ (.inr rfl))
    · exact commanded_ifIdle (.requesting _ _ _)
  | writeBytes => exact commanded_ifIdle (.requesting _ _ _)
  | fwUpdate =>
    show ∃ t, execFwUpdate s = .next t ∧ Commanded s .fwUpdate t
    exact commanded_ifIdle .startingSession
  | progressTake =>
    show ∃ t, execProgressTake s = .next t ∧ Commanded s .progressTake t
    unfold execProgressTake
    split_ifs with hbusy
    · exact ⟨_, rfl, .takenBusy hbusy⟩
    · exact ⟨_, rfl, .takenFree (Bool.not_eq_true _ ▸ hbusy)⟩
  | reserved7 => exact commanded_ifIdle (.ended _ _ _ (.inr rfl))
  | reserved8ToF x => exact commanded_ifIdle (.ended _ _ _ (.inr rfl))
  | _ => contradiction

/-- The codes of `CMD` are the codes of the commands (R104). -/
theorem cmdCode_decodeCmd (c : BitVec 4) : cmdCode (decodeCmd c) = some c := by
  revert c
  decide

theorem exec_decodeCmd (c : BitVec 4) (s : State) :
    ∃ t, exec (decodeCmd c) s = .next t ∧ Commanded s (decodeCmd c) t :=
  exec_commanded (cmdCode_decodeCmd c) s

theorem exec_operated {i : Instr} (hframe : cmdCode i = none) (s : State) :
    ∃ t, exec i s = .next t ∧ Operated s i t := by
  cases i with
  | ser st o d p => exact ⟨_, rfl, .serialized st o d p⟩
  | encodeRequest o p =>
    by_cases h : payloadAccepted s.params s.regs.dPlen p = true
    · exact ⟨_, exec_encodeRequest_accepted o h, .requested o p h⟩
    · exact ⟨_, exec_encodeRequest_rejected o h, .violated o p⟩
  | decodeResponse b =>
    cases hdec : decodeResponse s.params b s.seq.xRsize with
    | none => exact ⟨_, exec_decodeResponse_rejected hdec, .rejected b⟩
    | some f => exact ⟨_, exec_decodeResponse_accepted hdec, .accepted b f⟩
  | fwChunkRequest c n k data => exact ⟨_, rfl, .chunkRequested c n k data⟩
  | fwChunkReply o d r =>
    obtain ⟨rfl, h⟩ | ⟨-, rfl, h⟩ | ⟨-, hnext, hmore, h⟩ | ⟨-, -, h⟩ := execFwChunkReply_cases o d r s
    · exact ⟨_, h, .completed o d⟩
    · exact ⟨_, h, .sameAgain o d⟩
    · exact ⟨_, h, .nextWanted o d r hnext hmore⟩
    · exact ⟨_, h, .uninterpretable o d r⟩
  | clearStorageRequest c => exact ⟨_, rfl, .eraseRequested c⟩
  | clearStorageReply o d st =>
    show ∃ t, execClearStorageReply o d st s = .next t ∧ Operated s (.clearStorageReply o d st) t
    unfold execClearStorageReply
    split_ifs
    · exact ⟨_, rfl, .eraseFailed o d st⟩
    · exact ⟨_, rfl, .eraseThenBoot o d st⟩
    · exact ⟨_, rfl, .eraseThenStream o d st⟩
  | resetForBootRequest c => exact ⟨_, rfl, .bootWritten c⟩
  | resetMcuRequest c => exact ⟨_, rfl, .mcuWritten c⟩
  | _ => contradiction

theorem Commanded.sameOutside {s t : State} {i : Instr} (h : Commanded s i t) : SameOutside s t := by
  cases h <;> exact ⟨rfl, rfl, rfl, rfl, rfl⟩

theorem sameOutside_tWrite (b : Bytes) (s : State) : SameOutside s (tWrite b s) := by simp [SameOutside]

theorem sameOutside_returnFrame (f : Frame) (s : State) : SameOutside s (returnFrame f s) := by
  obtain ⟨-, h⟩ | ⟨-, -, h⟩ | ⟨_, _, -, -, h⟩ | ⟨-, h⟩ := returnFrame_cases f s <;> rw [h] <;>
    exact ⟨rfl, rfl, rfl, rfl, rfl⟩

theorem sameOutside_proceed (a : AfterAck) (s : State) : SameOutside s (proceed a s) := by
  cases a <;> exact ⟨rfl, rfl, rfl, rfl, rfl⟩

theorem sameOutside_acknowledge (a : AfterAck) (s : State) : SameOutside s (acknowledge a s) := by
  obtain ⟨-, h⟩ | ⟨-, h⟩ := acknowledge_cases a s <;> rw [h]
  · exact sameOutside_proceed a s
  · exact ⟨rfl, rfl, rfl, rfl, rfl⟩

theorem Operated.sameOutside {s t : State} {i : Instr} (h : Operated s i t) : SameOutside s t := by
  cases h with
  | bootWritten c => exact sameOutside_tWrite _ s
  | mcuWritten c => exact sameOutside_tWrite _ s
  | accepted b f => exact sameOutside_returnFrame f s
  | completed o d => exact sameOutside_acknowledge .finalize (setReqId _ s)
  | nextWanted o d r => exact sameOutside_acknowledge .advance (setReqId _ s)
  | _ => exact ⟨rfl, rfl, rfl, rfl, rfl⟩

theorem sameOutside_of_exec {i : Instr} {s t : State} (hexec : exec i s = .next t) : SameOutside s t := by
  cases hcode : cmdCode i with
  | some c =>
    obtain ⟨u, hu, hmove⟩ := exec_commanded hcode s
    cases hexec.symm.trans hu
    exact hmove.sameOutside
  | none =>
    obtain ⟨u, hu, hmove⟩ := exec_operated hcode s
    cases hexec.symm.trans hu
    exact hmove.sameOutside

/-- Settles O55: both relations leave the outside alone, and the memories are part of it. -/
theorem instructionsLeaveTheOutsideAlone : Obligations.InstructionsLeaveTheOutsideAlone := by
  intro i s t hexec
  obtain ⟨-, himg, hregs, -, -⟩ := sameOutside_of_exec hexec
  exact ⟨sameOutside_of_exec hexec, fun a => by rw [himg], fun a => by rw [hregs]⟩

end Sys2Proof.Machine
end

section
/-! What a step of the machine can do: one relation for the engine at its place, and one for the whole step. From the
invariant the engine always answers a next state. -/

namespace Sys2Proof.Machine

/-- What the engine does at its place in the pseudocode (R170, R175, R201). -/
inductive Advanced (s : State) : State → Prop
  | idled (hpos : s.pos = .idle) : Advanced s s
  | opened (k : ResKind) (hpos : s.pos = .openCall) : Advanced s (endWith k 0x00 (tOpen s.regs.busAddr s))
  | operated (i : Instr) (t : State) (hpos : s.pos = .op i) (h : Operated s i t) : Advanced s t
  | sent (hpos : s.pos = .send) : Advanced s (sendRequest s)
  | napped (n : Nap) (hpos : s.pos = .startSleep n) : Advanced s (goto (.sleeping n) (beginSleep n s))
  | ticked (n : Nap) (hpos : s.pos = .sleeping n) : Advanced s (tickTimer s)
  | waited (hpos : s.pos = .sleeping (.wait .ok)) (htimer : s.seq.timer = 0) :
    Advanced s (goto .recv (setRState .read s))
  | unsent (hpos : s.pos = .sleeping (.wait .fault)) (htimer : s.seq.timer = 0) : Advanced s (attemptFailed s)
  | retried (hpos : s.pos = .sleeping .backoff) (htimer : s.seq.timer = 0) (hleft : s.seq.attempt.toNat ≠ 9) :
    Advanced s (goto .send (nextAttempt s))
  | exhausted (hpos : s.pos = .sleeping .backoff) (htimer : s.seq.timer = 0) : Advanced s (returnNone s)
  | settled (hpos : s.pos = .sleeping .settle) (htimer : s.seq.timer = 0) : Advanced s (enterStreaming s)
  | read (hpos : s.pos = .recv) : Advanced s (recvResponse s)
  | checked (t : State) (hpos : s.pos = .check) (h : Operated s (.decodeResponse (received s)) t) : Advanced s t
  | uncounted (c : Cause) (hpos : s.pos = .countChunks) : Advanced s (abort c s)
  | counted (hpos : s.pos = .countChunks) (hsome : 1 ≤ imageChunks s) (hmax : imageChunks s ≤ 0xFFFE) :
    Advanced s (goto .loadChunk
      { s with fw := { s.fw with chunkCount := BitVec.ofNat 16 (imageChunks s), chunkIndex := 1 } })
  | loaded (hpos : s.pos = .loadChunk) : Advanced s (goto
      (.op (.fwChunkRequest s.params.opcFwChunk s.fw.chunkCount s.fw.chunkIndex (currentChunk s))) (withFinal s))
  | held (a : AfterAck) (hpos : s.pos = .hold a) : Advanced s s
  | released (a : AfterAck) (hpos : s.pos = .hold a) (htaken : s.fw.progressValid = false) : Advanced s (proceed a s)
  | finished (hpos : s.pos = .finish) : Advanced s (finishSession s)

section
variable {s : State}

theorem sleepStep_advanced {n : Nap} (hpos : s.pos = .sleeping n) : Advanced s (sleepStep n s) := by
  by_cases htimer : s.seq.timer = 0
  · rw [sleepStep_of_timer_zero htimer]
    cases n with
    | wait sent =>
      cases sent with
      | ok => exact .waited hpos htimer
      | fault => exact .unsent hpos htimer
    | backoff =>
      rw [endSleep]
      obtain ⟨-, h⟩ | ⟨hleft, h⟩ := afterBackoff_cases s <;> rw [h]
      · exact .exhausted hpos htimer
      · exact .retried hpos htimer hleft
    | settle => exact .settled hpos htimer
  · rw [sleepStep_of_timer_ne_zero htimer]
    exact .ticked n hpos

theorem countChunks_advanced (hpos : s.pos = .countChunks) : Advanced s (countChunks s) := by
  obtain ⟨-, h⟩ | ⟨-, h⟩ | ⟨hsome, hmax, h⟩ := countChunks_cases s <;> rw [h]
  · exact .uncounted _ hpos
  · exact .uncounted _ hpos
  · exact .counted hpos hsome hmax

theorem holdStep_advanced {a : AfterAck} (hpos : s.pos = .hold a) : Advanced s (holdStep a s) := by
  unfold holdStep
  split_ifs with hvalid
  · exact .held a hpos
  · exact .released a hpos (Bool.not_eq_true _ ▸ hvalid)

theorem openCall_advanced (hpos : s.pos = .openCall) : Advanced s (openCall s) := by
  unfold openCall
  split
  · exact .opened _ hpos
  · exact .opened _ hpos

/-- Only operations of `FRAME` rows are run from the engine's place. -/
theorem cmdCode_of_opAllowed {i : Instr} {f : FwState} (hop : opAllowed i f = true) : cmdCode i = none := by
  unfold opAllowed at hop
  split at hop
  case h_9 => contradiction
  all_goals rfl

/-- From the invariant the engine's step answers a next state: its operation is one of a `FRAME` row, and the chunk it
loads is in the image. -/
theorem Invariant.engineStep_advanced (hinv : Invariant s) : ∃ t, engineStep s = .next t ∧ Advanced s t := by
  cases hpos : s.pos with
  | idle => exact ⟨s, by rw [engineStep, hpos], .idled hpos⟩
  | openCall => exact ⟨_, by rw [engineStep, hpos], openCall_advanced hpos⟩
  | op i =>
    have hop : opAllowed i s.fw.fwState = true := by simpa [hpos, phaseAllowed] using hinv.phase
    obtain ⟨t, hexec, h⟩ := exec_operated (cmdCode_of_opAllowed hop) s
    exact ⟨t, (engineStep_op hpos).trans hexec, .operated i t hpos h⟩
  | send => exact ⟨_, engineStep_send hpos, .sent hpos⟩
  | startSleep n => exact ⟨_, engineStep_startSleep hpos, .napped n hpos⟩
  | sleeping n => exact ⟨_, engineStep_sleeping hpos, sleepStep_advanced hpos⟩
  | recv => exact ⟨_, engineStep_recv hpos, .read hpos⟩
  | check =>
    obtain ⟨t, hexec, h⟩ := exec_operated (i := .decodeResponse (received s)) rfl s
    exact ⟨t, (engineStep_check hpos).trans hexec, .checked t hpos h⟩
  | countChunks => exact ⟨_, by rw [engineStep, hpos], countChunks_advanced hpos⟩
  | loadChunk => exact ⟨_, loadingAChunkCompletes s hinv hpos, .loaded hpos⟩
  | hold a => exact ⟨_, by rw [engineStep, hpos], holdStep_advanced hpos⟩
  | finish => exact ⟨_, engineStep_finish hpos, .finished hpos⟩

end

/-- What a step does: a waiting code, the engine, or a move of the host (R26, log entries 5, 7). -/
inductive Stepped (s : State) : State → Prop
  | commanded (c : BitVec 4) (t : State) (hcmd : s.cmd = some c) (h : Commanded (dropCmd s) (decodeCmd c) t) :
    Stepped s t
  | advanced (u t : State) (hturn : u = s ∨ u = dropInput s) (h : Advanced u t) : Stepped s t
  | discarded : Stepped s (dropInput s)
  | wrote (w : RegWrite) (hfree : s.busy = false) (hrange : writeInRange s.params w = true) :
    Stepped s { dropInput s with regs := writeReg s.params w s.regs, img := writeImg w s.img }
  | strobed (c : BitVec 4) : Stepped s { dropInput s with cmd := some c }
  | reset (hcmd : s.cmd = none) (hmove : s.env.inputs.head? = some .reset) : Stepped s (resetEngine (dropInput s))

/-- The invariant speaks of the engine's registers and of the memories, not of the world outside, a waiting code or the
last result; and it survives the taking of a progress value. -/
theorem Invariant.congr {s t : State} {v : Bool} (hinv : Invariant s) (hparams : t.params = s.params)
    (himg : t.img = s.img) (hregs : t.regs = s.regs) (hbusy : t.busy = s.busy) (hpos : t.pos = s.pos)
    (hseq : t.seq = s.seq) (hfw : t.fw = { s.fw with progressValid := v })
    (hvalid : v = true → s.fw.progressValid = true) : Invariant t := by
  obtain ⟨params, img, env, cmd, regs, busy, pos, seq, res, fw⟩ := t
  dsimp only at hparams himg hregs hbusy hpos hseq hfw
  subst hparams himg hregs hbusy hpos hseq hfw
  exact {
    params_wf := hinv.params_wf
    img_wf := hinv.img_wf
    pbuf_wf := hinv.pbuf_wf
    addr_fits := hinv.addr_fits
    busy_iff := hinv.busy_iff
    rstate_eq := hinv.rstate_eq
    attempt_le := hinv.attempt_le
    timer_zero := hinv.timer_zero
    phase := hinv.phase
    op_operands := fun i hi => by
      have hop := hinv.op_operands i hi
      cases i <;> exact hop
    carries := hinv.carries
    expects := hinv.expects
    index_range := hinv.index_range
    progress_le := hinv.progress_le
    progress_range := hinv.progress_range
    valid_held := fun h => hinv.valid_held (hvalid h)
    hold_advance := hinv.hold_advance
    hold_sentinel := hinv.hold_sentinel
    done_sentinel := hinv.done_sentinel
    final_last := hinv.final_last
    err_aborted := hinv.err_aborted
    progress_fresh := hinv.progress_fresh }

theorem Invariant.dropInput {s : State} (hinv : Invariant s) : Invariant (dropInput s) :=
  hinv.congr rfl rfl rfl rfl rfl rfl rfl id

theorem Invariant.dropCmd {s : State} (hinv : Invariant s) : Invariant (dropCmd s) :=
  hinv.congr rfl rfl rfl rfl rfl rfl rfl id

/-- From the invariant a step answers a next state that `Stepped` lists, or it is a host write to an address that does
not exist. -/
theorem Invariant.step_stepped {s : State} (hinv : Invariant s) : (∃ t, step s = .next t ∧ Stepped s t) ∨
    (step s = .fault .hostAddress ∧ s.busy = false ∧ s.cmd = none ∧
      ∃ (w : RegWrite) (q : List HostMove), s.env.inputs = .write w :: q ∧ writeInRange s.params w = false) := by
  cases hcmd : s.cmd with
  | some c =>
    obtain ⟨t, hexec, h⟩ := exec_decodeCmd c (Machine.dropCmd s)
    exact .inl ⟨t, (step_of_cmd hcmd).trans hexec, .commanded c t hcmd h⟩
  | none =>
    cases hinputs : s.env.inputs with
    | nil =>
      obtain ⟨t, hadv, h⟩ := hinv.engineStep_advanced
      exact .inl ⟨t, (step_quiet ⟨hcmd, hinputs⟩).trans hadv, .advanced s t (.inl rfl) h⟩
    | cons m q =>
      have hdrop : step s = hostMove m (Machine.dropInput s) := by
        rw [step_of_move hcmd hinputs, Machine.dropInput, hinputs]
        rfl
      cases m with
      | pass =>
        obtain ⟨t, hadv, h⟩ := hinv.dropInput.engineStep_advanced
        exact .inl ⟨t, hdrop.trans hadv, .advanced _ t (.inr rfl) h⟩
      | cmd c => exact .inl ⟨_, hdrop, .strobed c⟩
      | reset => exact .inl ⟨_, hdrop, .reset hcmd (by rw [hinputs]; rfl)⟩
      | write w =>
        rw [hdrop, hostMove, hostWrite]
        split_ifs with hbusy hrange
        · exact .inl ⟨_, rfl, .discarded⟩
        · exact .inl ⟨_, rfl, .wrote w (Bool.not_eq_true _ ▸ hbusy) hrange⟩
        · exact .inr ⟨rfl, Bool.not_eq_true _ ▸ hbusy, rfl, w, q, rfl, Bool.not_eq_true _ ▸ hrange⟩

theorem Invariant.stepped {s t : State} (hinv : Invariant s) (hstep : step s = .next t) : Stepped s t := by
  obtain ⟨u, hu, h⟩ | ⟨hfault, -⟩ := hinv.step_stepped
  · cases hstep.symm.trans hu
    exact h
  · cases hstep.symm.trans hfault

/-- Settles O54: every action listed by `Stepped` is a next state, and the one left is the write that faults. -/
theorem engineNeverStops : Obligations.EngineNeverStops := by
  intro s hinv
  obtain ⟨t, hstep, -⟩ | hfault := hinv.step_stepped
  · exact .inl ⟨t, hstep⟩
  · exact .inr hfault

end Sys2Proof.Machine
end

section
/-! The invariant in four parts: what no operation of the engine writes, the control registers at the engine's place,
the request of the running exchange, and the session. -/

namespace Sys2Proof.Machine

/-- The part about the parameters, the memories and the operand registers. -/
structure FixedOk (s : State) : Prop where
  params_wf : s.params.wf
  img_wf : Memory.wf s.img = true
  pbuf_wf : Memory.wf s.regs.pbuf = true
  addr_fits : s.regs.busAddr < 2 ^ s.params.addrW

/-- The part about the control registers at the engine's place. -/
structure PlaceOk (s : State) : Prop where
  busy_iff : s.busy = true ↔ s.pos ≠ .idle
  rstate_eq : s.seq.rstate = rstateAt s.pos
  attempt_le : s.seq.attempt.toNat ≤ 9
  timer_zero : s.seq.timer ≠ 0 → ∃ n, s.pos = .sleeping n
  phase : phaseAllowed s.pos s.fw.fwState = true

/-- The part about the operation that is next and the exchange that is running. -/
structure RequestOk (s : State) : Prop where
  op_operands : ∀ i, s.pos = .op i → OpOperands s i
  carries : inExchange s.pos = true → ∃ o p, MayCarry s o p ∧ toSend s = requestFrame s.params o p
  expects : inExchange s.pos = true → s.seq.xRsize = exchangeSize s ∧ s.seq.xTimeout = exchangeTimeout s

/-- The part about the tracker. -/
structure SessionOk (s : State) : Prop where
  index_range : s.fw.fwState = .streaming → s.pos ≠ .countChunks →
    1 ≤ s.fw.chunkIndex.toNat ∧ s.fw.chunkIndex.toNat ≤ s.fw.chunkCount.toNat ∧ s.fw.chunkCount.toNat ≤ 0xFFFE ∧
      s.fw.chunkCount.toNat = imageChunks s
  progress_le : s.fw.fwState = .streaming → s.pos ≠ .countChunks →
    s.fw.lastProgress.toNat ≤ s.fw.chunkIndex.toNat * 100 / s.fw.chunkCount.toNat
  progress_range : s.fw.lastProgress.toNat ≤ 100 ∧ s.fw.progress.toNat ≤ 100
  valid_held : s.fw.progressValid = true → ∃ a, s.pos = .hold a
  hold_advance : s.pos = .hold .advance → s.fw.chunkIndex.toNat < s.fw.chunkCount.toNat
  hold_sentinel : s.pos = .hold .finalize → s.fw.reqId = Config.sentinel
  done_sentinel : s.fw.fwState = .finalizing ∨ s.fw.fwState = .done → s.fw.reqId = Config.sentinel
  final_last : s.fw.finalChunk = true →
    s.fw.fwState = .streaming ∧ s.pos ≠ .countChunks ∧ s.fw.chunkIndex = s.fw.chunkCount
  err_aborted : s.fw.fwErr ≠ 0 → s.fw.fwState = .aborted
  progress_fresh : s.fw.fwState = .erasing ∨ s.fw.fwState = .bootRequested ∨ s.pos = .countChunks →
    s.fw.lastProgress = 0

theorem invariant_iff {s : State} : Invariant s ↔ FixedOk s ∧ PlaceOk s ∧ RequestOk s ∧ SessionOk s := by
  constructor
  · rintro ⟨⟩
    exact ⟨by constructor <;> assumption, by constructor <;> assumption, by constructor <;> assumption,
      by constructor <;> assumption⟩
  · rintro ⟨⟨⟩, ⟨⟩, ⟨⟩, ⟨⟩⟩
    constructor <;> assumption

/-! ## What keeps each part -/

section
variable {s t : State}

theorem FixedOk.keep (h : FixedOk s) (hout : SameOutside s t) : FixedOk t := by
  obtain ⟨hparams, himg, hregs, -, -⟩ := hout
  exact ⟨by rw [hparams]; exact h.params_wf, by rw [himg]; exact h.img_wf, by rw [hregs]; exact h.pbuf_wf,
    by rw [hparams, hregs]; exact h.addr_fits⟩

theorem imageChunks_of_sameOutside (hout : SameOutside s t) : imageChunks t = imageChunks s := by
  obtain ⟨hparams, -, hregs, -, -⟩ := hout
  rw [imageChunks, hparams, hregs]
  rfl

/-- What an exchange may carry depends on the outside and the tracker. -/
theorem mayCarry_iff_of_same (hout : SameOutside s t) (hfw : t.fw = s.fw) {o : Byte} {p : Bytes} :
    MayCarry t o p ↔ MayCarry s o p := by
  obtain ⟨hparams, himg, hregs, -, -⟩ := hout
  unfold MayCarry currentChunk
  rw [hparams, himg, hregs, hfw]

/-- The registers of an exchange that its attempts leave alone (R31). -/
def SameRequest (s t : State) : Prop :=
  t.seq.txbuf = s.seq.txbuf ∧ t.seq.txlen = s.seq.txlen ∧ t.seq.xRsize = s.seq.xRsize ∧
    t.seq.xTimeout = s.seq.xTimeout

theorem RequestOk.keep (h : RequestOk s) (hout : SameOutside s t) (hfw : t.fw = s.fw)
    (hs : inExchange s.pos = true) (ht : inExchange t.pos = true) (hreq : SameRequest s t) : RequestOk t := by
  obtain ⟨hparams, -, hregs, -, -⟩ := id hout
  obtain ⟨htxbuf, htxlen, hsize, htimeout⟩ := hreq
  refine ⟨fun i hi => ?operands, fun _ => ?carries, fun _ => ?expects⟩
  case operands => rw [hi] at ht; contradiction
  case carries =>
    obtain ⟨o, p, hmay, hframe⟩ := h.carries hs
    refine ⟨o, p, (mayCarry_iff_of_same hout hfw).mpr hmay, ?_⟩
    rw [toSend, htxbuf, htxlen, hparams]
    exact hframe
  case expects =>
    rw [hsize, htimeout, exchangeSize_congr (congrArg _ hfw) hregs hparams,
      exchangeTimeout_congr (congrArg _ hfw) hregs]
    exact h.expects hs

theorem requestOk_of_op {i : Instr} (hpos : t.pos = .op i) (h : OpOperands t i) : RequestOk t := by
  refine ⟨fun j hj => ?_, fun hin => ?_, fun hin => ?_⟩
  · cases hpos.symm.trans hj
    exact h
  · rw [hpos] at hin; contradiction
  · rw [hpos] at hin; contradiction

/-- At the other places nothing is asked. -/
theorem requestOk_of_neither (hop : ∀ i, t.pos ≠ .op i) (hin : inExchange t.pos = false) : RequestOk t :=
  ⟨fun i hi => absurd hi (hop i), fun h => absurd (hin.symm.trans h) nofun,
    fun h => absurd (hin.symm.trans h) nofun⟩

/-- The places at which the tracker is neither entering `Streaming` nor holding. -/
def plain : Pos → Bool
  | .countChunks => false
  | .hold _ => false
  | _ => true

theorem plain_of_inExchange {p : Pos} (h : inExchange p = true) : plain p = true := by
  unfold inExchange at h
  split at h <;> trivial

theorem ne_countChunks_of_plain {p : Pos} (h : plain p = true) : p ≠ .countChunks := by
  rintro rfl
  contradiction

theorem ne_hold_of_plain {p : Pos} (h : plain p = true) (a : AfterAck) : p ≠ .hold a := by
  rintro rfl
  contradiction

/-- Between plain places the session goes on as it was while the tracker's registers are left alone. -/
theorem SessionOk.keep (h : SessionOk s) (hout : SameOutside s t) (hfw : t.fw = s.fw) (hs : plain s.pos = true)
    (ht : plain t.pos = true) : SessionOk t where
  index_range hstream _ := by
    rw [imageChunks_of_sameOutside hout, hfw]
    exact h.index_range (hfw ▸ hstream) (ne_countChunks_of_plain hs)
  progress_le hstream _ := by
    rw [hfw]
    exact h.progress_le (hfw ▸ hstream) (ne_countChunks_of_plain hs)
  progress_range := hfw ▸ h.progress_range
  valid_held hvalid := by
    obtain ⟨a, ha⟩ := h.valid_held (hfw ▸ hvalid)
    exact absurd ha (ne_hold_of_plain hs a)
  hold_advance ha := absurd ha (ne_hold_of_plain ht _)
  hold_sentinel ha := absurd ha (ne_hold_of_plain ht _)
  done_sentinel := hfw ▸ h.done_sentinel
  final_last hfinal := by
    rw [hfw] at hfinal ⊢
    obtain ⟨hstream, -, hlast⟩ := h.final_last hfinal
    exact ⟨hstream, ne_countChunks_of_plain ht, hlast⟩
  err_aborted := hfw ▸ h.err_aborted
  progress_fresh hearly := by
    rw [hfw] at hearly ⊢
    exact h.progress_fresh (hearly.imp_right (·.imp_right fun hp => absurd hp (ne_countChunks_of_plain ht)))

/-- A tracker with no session under way (R37). -/
structure Rested (f : Tracker) : Prop where
  resting : resting f.fwState = true
  sentinel : f.fwState = .done → f.reqId = Config.sentinel
  range : f.lastProgress.toNat ≤ 100 ∧ f.progress.toNat ≤ 100
  valid : f.progressValid = false
  final : f.finalChunk = false
  err : f.fwErr ≠ 0 → f.fwState = .aborted

theorem ne_of_resting {f g : FwState} (hf : resting f = true) (hg : resting g = false) : f ≠ g := by
  rintro rfl
  exact absurd (hf.symm.trans hg) nofun

theorem Rested.sessionOk (h : Rested t.fw) (hpos : t.pos = .idle) : SessionOk t where
  index_range hstream := absurd hstream (ne_of_resting h.resting rfl)
  progress_le hstream := absurd hstream (ne_of_resting h.resting rfl)
  progress_range := h.range
  valid_held hvalid := absurd (h.valid.symm.trans hvalid) nofun
  hold_advance ha := by rw [hpos] at ha; contradiction
  hold_sentinel ha := by rw [hpos] at ha; contradiction
  done_sentinel := Or.rec (fun hfin => absurd hfin (ne_of_resting h.resting rfl)) h.sentinel
  final_last hfinal := absurd (h.final.symm.trans hfinal) nofun
  err_aborted := h.err
  progress_fresh hearly := by
    obtain he | hb | hp := hearly
    · exact absurd he (ne_of_resting h.resting rfl)
    · exact absurd hb (ne_of_resting h.resting rfl)
    · rw [hpos] at hp; contradiction

/-- A tracker before the first chunk: erasing, asking for a boot, or counting the chunks. -/
structure Opening (f : Tracker) : Prop where
  fresh : f.lastProgress = 0
  range : f.progress.toNat ≤ 100
  valid : f.progressValid = false
  final : f.finalChunk = false
  err : f.fwErr = 0

theorem Opening.sessionOk (h : Opening t.fw) (hhold : ∀ a, t.pos ≠ .hold a)
    (hfw : t.fw.fwState = .erasing ∨ t.fw.fwState = .bootRequested ∨
      t.fw.fwState = .streaming ∧ t.pos = .countChunks) : SessionOk t where
  index_range hstream hpos := by simp [hstream, hpos] at hfw
  progress_le hstream hpos := by simp [hstream, hpos] at hfw
  progress_range := ⟨by rw [h.fresh]; exact Nat.zero_le _, h.range⟩
  valid_held hvalid := absurd (h.valid.symm.trans hvalid) nofun
  hold_advance ha := absurd ha (hhold _)
  hold_sentinel ha := absurd ha (hhold _)
  done_sentinel hend := by rcases hend with hend | hend <;> simp [hend] at hfw
  final_last hfinal := absurd (h.final.symm.trans hfinal) nofun
  err_aborted herr := absurd h.err herr
  progress_fresh _ := h.fresh

/-- A tracker that streams `n` chunks. -/
structure Streams (n : Nat) (f : Tracker) : Prop where
  streaming : f.fwState = .streaming
  first : 1 ≤ f.chunkIndex.toNat
  last : f.chunkIndex.toNat ≤ f.chunkCount.toNat
  max : f.chunkCount.toNat ≤ 0xFFFE
  count : f.chunkCount.toNat = n
  surfaced : f.lastProgress.toNat ≤ f.chunkIndex.toNat * 100 / f.chunkCount.toNat
  range : f.lastProgress.toNat ≤ 100 ∧ f.progress.toNat ≤ 100
  final : f.finalChunk = true → f.chunkIndex = f.chunkCount
  err : f.fwErr = 0

theorem Streams.sessionOk (h : Streams (imageChunks t) t.fw) (hpos : t.pos ≠ .countChunks)
    (hvalid : t.fw.progressValid = true → ∃ a, t.pos = .hold a)
    (hadvance : t.pos = .hold .advance → t.fw.chunkIndex.toNat < t.fw.chunkCount.toNat)
    (hfinalize : t.pos = .hold .finalize → t.fw.reqId = Config.sentinel) : SessionOk t where
  index_range _ _ := ⟨h.first, h.last, h.max, h.count⟩
  progress_le _ _ := h.surfaced
  progress_range := h.range
  valid_held := hvalid
  hold_advance := hadvance
  hold_sentinel := hfinalize
  done_sentinel hend := by simp [h.streaming] at hend
  final_last hfinal := ⟨h.streaming, hpos, h.final hfinal⟩
  err_aborted herr := absurd h.err herr
  progress_fresh hearly := by simp [h.streaming, hpos] at hearly

theorem Streams.sessionOk_of_plain (h : Streams (imageChunks t) t.fw) (hpos : plain t.pos = true)
    (hvalid : t.fw.progressValid = false) : SessionOk t :=
  h.sessionOk (ne_countChunks_of_plain hpos) (fun hv => absurd (hvalid.symm.trans hv) nofun)
    (fun ha => absurd ha (ne_hold_of_plain hpos _)) (fun ha => absurd ha (ne_hold_of_plain hpos _))

/-- A tracker after the sentinel (R215). -/
structure Finalizing (f : Tracker) : Prop where
  finalizing : f.fwState = .finalizing
  sentinel : f.reqId = Config.sentinel
  range : f.lastProgress.toNat ≤ 100 ∧ f.progress.toNat ≤ 100
  valid : f.progressValid = false
  final : f.finalChunk = false
  err : f.fwErr = 0

theorem Finalizing.sessionOk (h : Finalizing t.fw) (hpos : plain t.pos = true) : SessionOk t where
  index_range hstream := absurd (h.finalizing.symm.trans hstream) nofun
  progress_le hstream := absurd (h.finalizing.symm.trans hstream) nofun
  progress_range := h.range
  valid_held hvalid := absurd (h.valid.symm.trans hvalid) nofun
  hold_advance ha := absurd ha (ne_hold_of_plain hpos _)
  hold_sentinel ha := absurd ha (ne_hold_of_plain hpos _)
  done_sentinel _ := h.sentinel
  final_last hfinal := absurd (h.final.symm.trans hfinal) nofun
  err_aborted herr := absurd h.err herr
  progress_fresh hearly := by simp [h.finalizing, ne_countChunks_of_plain hpos] at hearly

/-! ## What the invariant says of the tracker and of the control registers at a place -/

theorem Invariant.phase_at {p : Pos} (hinv : Invariant s) (hpos : s.pos = p) :
    phaseAllowed p s.fw.fwState = true := by
  rw [← hpos]
  exact hinv.phase

theorem Invariant.fixedOk (hinv : Invariant s) : FixedOk s := (invariant_iff.mp hinv).1
theorem Invariant.placeOk (hinv : Invariant s) : PlaceOk s := (invariant_iff.mp hinv).2.1
theorem Invariant.requestOk (hinv : Invariant s) : RequestOk s := (invariant_iff.mp hinv).2.2.1
theorem Invariant.sessionOk (hinv : Invariant s) : SessionOk s := (invariant_iff.mp hinv).2.2.2

theorem Invariant.pos_idle_of_free (hinv : Invariant s) (hfree : s.busy = false) : s.pos = .idle := by
  by_contra hne
  exact absurd (hfree.symm.trans (hinv.busy_iff.mpr hne)) nofun

theorem Invariant.not_valid (hinv : Invariant s) (hhold : ∀ a, s.pos ≠ .hold a) : s.fw.progressValid = false := by
  rw [← Bool.not_eq_true]
  intro hvalid
  obtain ⟨a, ha⟩ := hinv.valid_held hvalid
  exact hhold a ha

theorem Invariant.timer_eq_zero (hinv : Invariant s) (hsleep : ∀ n, s.pos ≠ .sleeping n) : s.seq.timer = 0 := by
  by_contra hne
  obtain ⟨n, hn⟩ := hinv.timer_zero hne
  exact hsleep n hn

theorem Invariant.err_zero (hinv : Invariant s) (hfw : s.fw.fwState ≠ .aborted) : s.fw.fwErr = 0 := by
  by_contra hne
  exact hfw (hinv.err_aborted hne)

theorem Invariant.not_final (hinv : Invariant s) (hfw : s.fw.fwState ≠ .streaming ∨ s.pos = .countChunks) :
    s.fw.finalChunk = false := by
  rw [← Bool.not_eq_true]
  intro hfinal
  obtain ⟨hstream, hpos, -⟩ := hinv.final_last hfinal
  exact hfw.elim (· hstream) hpos

theorem Invariant.rested (hinv : Invariant s) (hrest : resting s.fw.fwState = true) : Rested s.fw where
  resting := hrest
  sentinel hdone := hinv.done_sentinel (.inr hdone)
  range := hinv.progress_range
  valid := hinv.not_valid_of_resting hrest
  final := hinv.not_final (.inl (ne_of_resting hrest rfl))
  err := hinv.err_aborted

theorem Invariant.opening (hinv : Invariant s) (hhold : ∀ a, s.pos ≠ .hold a)
    (hfw : s.fw.fwState = .erasing ∨ s.fw.fwState = .bootRequested ∨
      s.fw.fwState = .streaming ∧ s.pos = .countChunks) : Opening s.fw where
  fresh := hinv.progress_fresh (hfw.imp_right (·.imp_right And.right))
  range := hinv.progress_range.2
  valid := hinv.not_valid hhold
  final := hinv.not_final (by rcases hfw with hfw | hfw | ⟨-, hpos⟩ <;> simp [*])
  err := hinv.err_zero (by rcases hfw with hfw | hfw | ⟨hfw, -⟩ <;> simp [hfw])

theorem Invariant.streams (hinv : Invariant s) (hfw : s.fw.fwState = .streaming) (hpos : s.pos ≠ .countChunks) :
    Streams (imageChunks s) s.fw := by
  obtain ⟨hfirst, hlast, hmax, hcount⟩ := hinv.index_range hfw hpos
  exact ⟨hfw, hfirst, hlast, hmax, hcount, hinv.progress_le hfw hpos, hinv.progress_range,
    fun hfinal => (hinv.final_last hfinal).2.2, hinv.err_zero (by rw [hfw]; exact nofun)⟩

/-- The control registers while an operation is in progress but no exchange is. -/
structure Between (s : State) : Prop where
  busy : s.busy = true
  rstate : s.seq.rstate = .idle
  attempt : s.seq.attempt.toNat ≤ 9
  timer : s.seq.timer = 0

theorem Invariant.between (hinv : Invariant s) (hidle : s.pos ≠ .idle) (hr : rstateAt s.pos = .idle)
    (hsleep : ∀ n, s.pos ≠ .sleeping n) : Between s :=
  ⟨hinv.busy_iff.mpr hidle, hinv.rstate_eq.trans hr, hinv.attempt_le, hinv.timer_eq_zero hsleep⟩

theorem Between.placeOk (h : Between t) (hidle : t.pos ≠ .idle) (hr : rstateAt t.pos = .idle)
    (hphase : phaseAllowed t.pos t.fw.fwState = true) : PlaceOk t :=
  ⟨iff_of_true h.busy hidle, h.rstate.trans hr.symm, h.attempt, fun hne => absurd h.timer hne, hphase⟩

/-- The control registers when no operation is in progress. -/
structure Stopped (s : State) : Prop where
  pos : s.pos = .idle
  busy : s.busy = false
  rstate : s.seq.rstate = .idle
  attempt : s.seq.attempt.toNat ≤ 9
  timer : s.seq.timer = 0

/-- The end of an operation meets the invariant when the tracker is at rest. -/
theorem Stopped.invariant (h : Stopped t) (hfixed : FixedOk t) (hrest : Rested t.fw) : Invariant t := by
  have hphase : phaseAllowed t.pos t.fw.fwState = true := by rw [h.pos]; exact hrest.resting
  have hbusy : t.busy = true ↔ t.pos ≠ .idle := by simp [h.busy, h.pos]
  have hrstate : t.seq.rstate = rstateAt t.pos := by rw [h.rstate, h.pos]; rfl
  exact invariant_iff.mpr ⟨hfixed, ⟨hbusy, hrstate, h.attempt, fun hne => absurd h.timer hne, hphase⟩,
    requestOk_of_neither (by rw [h.pos]; exact nofun) (by rw [h.pos]; rfl), hrest.sessionOk h.pos⟩

end

end Sys2Proof.Machine
end

section
/-! The invariant through the commands and the ends of an operation. -/

namespace Sys2Proof.Machine

section
variable {s t : State}

theorem stopped_endWith (k : ResKind) (code : Byte) (hr : s.seq.rstate = .idle) (hattempt : s.seq.attempt.toNat ≤ 9)
    (htimer : s.seq.timer = 0) : Stopped (endWith k code s) :=
  ⟨rfl, rfl, hr, hattempt, htimer⟩

theorem sameOutside_abort (c : Cause) (s : State) : SameOutside s (abort c s) := ⟨rfl, rfl, rfl, rfl, rfl⟩

/-- An abort meets the invariant, whatever was going on in the session (R248). -/
theorem invariant_abort (c : Cause) (hfixed : FixedOk s) (hattempt : s.seq.attempt.toNat ≤ 9) (htimer : s.seq.timer = 0)
    (hrange : s.fw.lastProgress.toNat ≤ 100 ∧ s.fw.progress.toNat ≤ 100) (hvalid : s.fw.progressValid = false) :
    Invariant (abort c s) :=
  Stopped.invariant ⟨rfl, rfl, rfl, hattempt, htimer⟩ (hfixed.keep (sameOutside_abort c s))
    ⟨rfl, nofun, hrange, hvalid, rfl, fun _ => rfl⟩

theorem Invariant.abort (hinv : Invariant s) (c : Cause) (htimer : s.seq.timer = 0) (hhold : ∀ a, s.pos ≠ .hold a) :
    Invariant (abort c s) :=
  invariant_abort c hinv.fixedOk hinv.attempt_le htimer hinv.progress_range (hinv.not_valid hhold)

/-- An ordinary command's end meets the invariant. -/
theorem Invariant.ended (hinv : Invariant s) (hrest : resting s.fw.fwState = true) (h : Stopped t)
    (hout : SameOutside s t) (hfw : t.fw = s.fw) : Invariant t :=
  h.invariant (hinv.fixedOk.keep hout) (hfw ▸ hinv.rested hrest)

/-- The issue of a command that goes on: the tracker is at rest and the next action of the command is next. -/
theorem Invariant.issued (hinv : Invariant s) (hfree : s.busy = false) {p : Pos} (hidle : p ≠ .idle)
    (hr : rstateAt p = .idle) (hplain : plain p = true)
    (hphase : resting s.fw.fwState = true → phaseAllowed p s.fw.fwState = true)
    (hreq : RequestOk (goto p (issue s))) : Invariant (goto p (issue s)) := by
  have hpos := hinv.pos_idle_of_free hfree
  have hbetween : Between (goto p (issue s)) :=
    ⟨rfl, hinv.rstate_eq.trans (by rw [hpos]; rfl), hinv.attempt_le, hinv.timer_eq_zero (by rw [hpos]; exact nofun)⟩
  have hout : SameOutside s (goto p (issue s)) := ⟨rfl, rfl, rfl, rfl, rfl⟩
  exact invariant_iff.mpr ⟨hinv.fixedOk.keep hout, hbetween.placeOk hidle hr (hphase (hinv.phase_at hpos)), hreq,
    hinv.sessionOk.keep hout rfl (by rw [hpos]; rfl) hplain⟩

/-- A new session meets the invariant, whatever the last one left (R201, D24). -/
theorem Invariant.startedSession (hinv : Invariant s) (hfree : s.busy = false) :
    Invariant (goto (.op (.clearStorageRequest s.params.opcClearStorage)) (newSession (issue s))) := by
  have hpos := hinv.pos_idle_of_free hfree
  have hbetween : Between (goto (.op (.clearStorageRequest s.params.opcClearStorage)) (newSession (issue s))) :=
    ⟨rfl, hinv.rstate_eq.trans (by rw [hpos]; rfl), hinv.attempt_le, hinv.timer_eq_zero (by rw [hpos]; exact nofun)⟩
  have hopening : Opening (goto (.op (.clearStorageRequest s.params.opcClearStorage)) (newSession (issue s))).fw :=
    ⟨rfl, Nat.zero_le _, rfl, rfl, rfl⟩
  exact invariant_iff.mpr ⟨hinv.fixedOk.keep ⟨rfl, rfl, rfl, rfl, rfl⟩, hbetween.placeOk nofun rfl rfl,
    requestOk_of_op rfl rfl, hopening.sessionOk nofun (.inl rfl)⟩

theorem Invariant.commanded {i : Instr} (hinv : Invariant s) (h : Commanded s i t) : Invariant t := by
  cases h with
  | discarded => exact hinv
  | ended i k code hk hfree =>
    exact hinv.congr rfl rfl rfl hfree.symm (hinv.pos_idle_of_free hfree).symm rfl rfl id
  | opening hfree =>
    exact hinv.issued hfree nofun rfl rfl id (requestOk_of_neither nofun rfl)
  | requesting i o p hfree =>
    exact hinv.issued hfree nofun rfl rfl id (requestOk_of_op rfl trivial)
  | startingSession hfree => exact hinv.startedSession hfree
  | takenBusy => exact hinv.congr (v := false) rfl rfl rfl rfl rfl rfl rfl nofun
  | takenFree hfree =>
    exact hinv.congr (v := false) rfl rfl rfl hfree.symm (hinv.pos_idle_of_free hfree).symm rfl rfl nofun

end

end Sys2Proof.Machine
end

section
/-! The invariant through the operations of the `FRAME` rows. -/

namespace Sys2Proof.Machine

section
variable {s t : State}

theorem Invariant.between_of_op {i : Instr} (hinv : Invariant s) (hpos : s.pos = .op i) : Between s :=
  hinv.between (by rw [hpos]; exact nofun) (by rw [hpos]; rfl) (by rw [hpos]; exact nofun)

theorem Invariant.opAllowed {i : Instr} (hinv : Invariant s) (hpos : s.pos = .op i) :
    opAllowed i s.fw.fwState = true := hinv.phase_at hpos

theorem tWrite_control (b : Bytes) (s : State) :
    (tWrite b s).busy = s.busy ∧ (tWrite b s).seq = s.seq ∧ (tWrite b s).fw = s.fw :=
  ⟨tWrite_busy s b, tWrite_seq s b, tWrite_fw s b⟩

/-- From one action between exchanges to another the session goes on as it was while the tracker is left alone. -/
theorem Invariant.move {i : Instr} (hinv : Invariant s) (hpos : s.pos = .op i) {p : Pos} (ht : t.pos = p)
    (hidle : p ≠ .idle) (hr : rstateAt p = .idle) (hplain : plain p = true)
    (hphase : phaseAllowed p s.fw.fwState = true) (hreq : RequestOk t) (hout : SameOutside s t)
    (hcontrol : t.busy = s.busy ∧ t.seq = s.seq ∧ t.fw = s.fw) : Invariant t := by
  subst ht
  obtain ⟨hbusy, hseq, hfw⟩ := hcontrol
  obtain ⟨hb, hrs, ha, htimer⟩ := hinv.between_of_op hpos
  have hbetween : Between t := ⟨hbusy.trans hb, by rw [hseq, hrs], by rw [hseq]; exact ha, by rw [hseq, htimer]⟩
  exact invariant_iff.mpr ⟨hinv.fixedOk.keep hout, hbetween.placeOk hidle hr (by rw [hfw]; exact hphase), hreq,
    hinv.sessionOk.keep hout hfw (by rw [hpos]; rfl) hplain⟩

/-- A row that begins an exchange puts `SER` of a request the exchange may carry next (R131). -/
theorem Invariant.begun {i : Instr} (hinv : Invariant s) (hpos : s.pos = .op i) {o : Byte} {p : Bytes}
    (hexch : exchanging s.fw.fwState = true) (hmay : MayCarry s o p) : Invariant (beginExchange o p s) := by
  have hout : SameOutside s (beginExchange o p s) := ⟨rfl, rfl, rfl, rfl, rfl⟩
  exact hinv.move hpos rfl nofun rfl rfl hexch
    (requestOk_of_op rfl ⟨rfl, rfl, (mayCarry_iff_of_same hout rfl).mpr hmay⟩) hout ⟨rfl, rfl, rfl⟩

theorem exchanging_of_resting {f : FwState} (hrest : resting f = true) : exchanging f = true := by
  simp [exchanging, hrest]

/-- A chunk's payload fits (R9, R101). -/
theorem Invariant.chunkPayload_fits_of_streaming (hinv : Invariant s) (hfw : s.fw.fwState = .streaming)
    (hpos : s.pos ≠ .countChunks) :
    (chunkPayload s.fw.chunkCount s.fw.chunkIndex (currentChunk s)).length ≤ s.params.payloadMax := by
  obtain ⟨hfirst, hlast, -, hcount⟩ := hinv.index_range hfw hpos
  obtain ⟨hC, hmax, -⟩ := hinv.params_wf
  obtain ⟨-, hlen, -⟩ := chunkLen_bounds hC hfirst (hlast.trans_eq hcount)
  rw [chunkPayload_length, currentChunk, hcount, chunkData_length]
  exact (Nat.add_le_add_left hlen 4).trans hmax

/-- The frame of a request that an exchange may carry fits the transmit buffer (R31). -/
theorem Invariant.toSend_requestFrame (hinv : Invariant s) {o : Byte} {p : Bytes}
    (hfits : p.length ≤ s.params.payloadMax) :
    toSend (loadFrame (requestFrame s.params o p) s) = requestFrame s.params o p := by
  obtain ⟨-, -, -, -, hsize, -⟩ := hinv.params_wf
  refine toSend_loadFrame _ _ (lt_of_le_of_lt ?_ hsize)
  rw [requestFrame, serialize_length]
  unfold Params.size
  omega

/-- The start of `EXECUTE` meets the invariant (R175). -/
theorem Invariant.loaded {st o d : Byte} {p : Bytes} (hinv : Invariant s) (hpos : s.pos = .op (.ser st o d p)) :
    Invariant (loadFrame (serialize s.params st o d p) s) := by
  obtain ⟨rfl, rfl, hmay⟩ : st = Config.startSent ∧ d = Config.dirReq ∧ MayCarry s o p := hinv.op_operands _ hpos
  have hout : SameOutside s (loadFrame (requestFrame s.params o p) s) := ⟨rfl, rfl, rfl, rfl, rfl⟩
  have hbetween := hinv.between_of_op hpos
  have hplace : PlaceOk (loadFrame (requestFrame s.params o p) s) :=
    ⟨iff_of_true hbetween.busy nofun, rfl, Nat.zero_le _, fun hne => absurd hbetween.timer hne, hinv.opAllowed hpos⟩
  have hreq : RequestOk (loadFrame (requestFrame s.params o p) s) :=
    ⟨nofun, fun _ => ⟨o, p, (mayCarry_iff_of_same hout rfl).mpr hmay, hinv.toSend_requestFrame hmay.1⟩,
      fun _ => ⟨rfl, rfl⟩⟩
  exact invariant_iff.mpr ⟨hinv.fixedOk.keep hout, hplace, hreq,
    hinv.sessionOk.keep hout rfl (by rw [hpos]; rfl) rfl⟩

/-! ## The session's steps between exchanges -/

/-- The erase has succeeded: a boot request is next (R204). -/
theorem Invariant.erasedThenBoot {o d st : Byte} (hinv : Invariant s)
    (hpos : s.pos = .op (.clearStorageReply o d st)) : Invariant
      (goto (.op (.resetForBootRequest s.params.opcResetForBoot)) (setFwState .bootRequested s)) := by
  have hfw : s.fw.fwState = .erasing := of_decide_eq_true (hinv.opAllowed hpos)
  obtain ⟨hbusy, hr, hattempt, htimer⟩ := hinv.between_of_op hpos
  obtain ⟨hfresh, hrange, hvalid, hfinal, herr⟩ := hinv.opening (by rw [hpos]; exact nofun) (.inl hfw)
  have hbetween : Between (goto (.op (.resetForBootRequest s.params.opcResetForBoot)) (setFwState .bootRequested s)) :=
    ⟨hbusy, hr, hattempt, htimer⟩
  exact invariant_iff.mpr ⟨hinv.fixedOk.keep ⟨rfl, rfl, rfl, rfl, rfl⟩, hbetween.placeOk nofun rfl rfl,
    requestOk_of_op rfl rfl, Opening.sessionOk ⟨hfresh, hrange, hvalid, hfinal, herr⟩ nofun (.inr (.inl rfl))⟩

/-- Entry to `Streaming`, from the erase or from the settle delay (R206). -/
theorem Invariant.enteredStreaming (hinv : Invariant s) (hbetween : Between s) (hhold : ∀ a, s.pos ≠ .hold a)
    (hfw : s.fw.fwState = .erasing ∨ s.fw.fwState = .bootRequested) : Invariant (enterStreaming s) := by
  obtain ⟨hbusy, hr, hattempt, htimer⟩ := hbetween
  obtain ⟨hfresh, hrange, hvalid, hfinal, herr⟩ := hinv.opening hhold (hfw.imp_right .inl)
  have hbetween : Between (enterStreaming s) := ⟨hbusy, hr, hattempt, htimer⟩
  exact invariant_iff.mpr ⟨hinv.fixedOk.keep ⟨rfl, rfl, rfl, rfl, rfl⟩, hbetween.placeOk nofun rfl rfl,
    requestOk_of_neither nofun rfl,
    Opening.sessionOk ⟨hfresh, hrange, hvalid, hfinal, herr⟩ nofun (.inr (.inr ⟨rfl, rfl⟩))⟩

/-- The percentage of a chunk of the image, exactly (R218, R17(h)). -/
theorem toNat_progressOf {k n : Half} (hk : k.toNat ≤ n.toNat) :
    (progressOf k n).toNat = k.toNat * 100 / n.toNat ∧ k.toNat * 100 / n.toNat ≤ 100 := by
  have hle : k.toNat * 100 / n.toNat ≤ 100 := Nat.div_le_of_le_mul (by omega)
  exact ⟨Nat.mod_eq_of_lt (by omega), hle⟩

namespace Streams
variable {n : Nat} {f : Tracker}

theorem setReqId (h : Streams n f) (r : Half) : Streams n { f with reqId := r } :=
  ⟨h.streaming, h.first, h.last, h.max, h.count, h.surfaced, h.range, h.final, h.err⟩

/-- The next chunk's number (R38, R213). -/
theorem toNat_chunkIndex_succ (h : Streams n f) (hmore : f.chunkIndex.toNat < f.chunkCount.toNat) :
    (f.chunkIndex + 1).toNat = f.chunkIndex.toNat + 1 := by
  have hmax := h.max
  bv_omega

theorem advance (h : Streams n f) (hmore : f.chunkIndex.toNat < f.chunkCount.toNat) :
    Streams n { f with chunkIndex := f.chunkIndex + 1 } where
  streaming := h.streaming
  first := by rw [h.toNat_chunkIndex_succ hmore]; exact Nat.succ_pos _
  last := by rw [h.toNat_chunkIndex_succ hmore]; exact hmore
  max := h.max
  count := h.count
  surfaced := by
    rw [h.toNat_chunkIndex_succ hmore]
    exact h.surfaced.trans (Nat.div_le_div_right (Nat.mul_le_mul_right 100 (Nat.le_succ _)))
  range := h.range
  final hfinal := absurd (congrArg BitVec.toNat (h.final hfinal)) hmore.ne
  err := h.err

theorem surface (h : Streams n f) : Streams n { f with
    lastProgress := progressOf f.chunkIndex f.chunkCount
    progress := progressOf f.chunkIndex f.chunkCount
    progressValid := true } := by
  obtain ⟨hexact, hle⟩ := toNat_progressOf h.last
  exact ⟨h.streaming, h.first, h.last, h.max, h.count, hexact.le, ⟨hexact ▸ hle, hexact ▸ hle⟩, h.final, h.err⟩

end Streams

/-- A state in which the current chunk is acknowledged and `a` is due. -/
structure Acked (a : AfterAck) (s : State) : Prop where
  fixed : FixedOk s
  between : Between s
  streams : Streams (imageChunks s) s.fw
  free : s.fw.progressValid = false
  advance : a = .advance → s.fw.chunkIndex.toNat < s.fw.chunkCount.toNat
  finalize : a = .finalize → s.fw.reqId = Config.sentinel

/-- A streaming session about to load a chunk. -/
theorem Streams.invariant_of_loadChunk (h : Streams (imageChunks t) t.fw) (hfixed : FixedOk t) (hbetween : Between t)
    (hvalid : t.fw.progressValid = false) (hpos : t.pos = .loadChunk) : Invariant t := by
  have hphase : phaseAllowed t.pos t.fw.fwState = true := by rw [hpos]; exact decide_eq_true h.streaming
  exact invariant_iff.mpr ⟨hfixed, hbetween.placeOk (by rw [hpos]; exact nofun) (by rw [hpos]; rfl) hphase,
    requestOk_of_neither (by rw [hpos]; exact nofun) (by rw [hpos]; rfl),
    h.sessionOk_of_plain (by rw [hpos]; rfl) hvalid⟩

/-- What follows the acknowledged chunk meets the invariant (R213, R215). -/
theorem Acked.proceed {a : AfterAck} (h : Acked a s) : Invariant (proceed a s) := by
  obtain ⟨hfixed, ⟨hbusy, hr, hattempt, htimer⟩, hstreams, hfree, hadvance, hfinalize⟩ := h
  have hfixed' : FixedOk (Machine.proceed a s) := hfixed.keep (sameOutside_proceed a s)
  cases a with
  | advance =>
    exact (hstreams.advance (hadvance rfl)).invariant_of_loadChunk hfixed' ⟨hbusy, hr, hattempt, htimer⟩ hfree rfl
  | finalize =>
    have hbetween : Between (Machine.proceed .finalize s) := ⟨hbusy, hr, hattempt, htimer⟩
    have hfinalizing : Finalizing (Machine.proceed .finalize s).fw :=
      ⟨rfl, hfinalize rfl, hstreams.range, hfree, rfl, hstreams.err⟩
    exact invariant_iff.mpr ⟨hfixed', hbetween.placeOk nofun rfl rfl, requestOk_of_op rfl rfl,
      hfinalizing.sessionOk rfl⟩

/-- The hold of a surfaced value meets the invariant (R219). -/
theorem Acked.hold {a : AfterAck} (h : Acked a s) :
    Invariant (goto (.hold a) (surface (progressOf s.fw.chunkIndex s.fw.chunkCount) s)) := by
  obtain ⟨hfixed, ⟨hbusy, hr, hattempt, htimer⟩, hstreams, hfree, hadvance, hfinalize⟩ := h
  have hbetween : Between (goto (.hold a) (surface (progressOf s.fw.chunkIndex s.fw.chunkCount) s)) :=
    ⟨hbusy, hr, hattempt, htimer⟩
  exact invariant_iff.mpr ⟨hfixed.keep ⟨rfl, rfl, rfl, rfl, rfl⟩,
    hbetween.placeOk nofun rfl (decide_eq_true hstreams.streaming), requestOk_of_neither nofun rfl,
    hstreams.surface.sessionOk nofun (fun _ => ⟨a, rfl⟩) (fun ha => hadvance (Pos.hold.inj ha))
      (fun ha => hfinalize (Pos.hold.inj ha))⟩

theorem Acked.acknowledge {a : AfterAck} (h : Acked a s) : Invariant (acknowledge a s) := by
  obtain ⟨-, heq⟩ | ⟨-, heq⟩ := acknowledge_cases a s <;> rw [heq]
  · exact h.proceed
  · exact h.hold

section
variable {o d : Byte} {r : Half} (hinv : Invariant s) (hpos : s.pos = .op (.fwChunkReply o d r))
include hinv hpos

theorem Invariant.streams_of_reply : Streams (imageChunks s) s.fw :=
  hinv.streams (of_decide_eq_true (hinv.opAllowed hpos)) (by rw [hpos]; exact nofun)

theorem Invariant.not_valid_of_op : s.fw.progressValid = false := hinv.not_valid (by rw [hpos]; exact nofun)

/-- A reply acknowledges the chunk sent. -/
theorem Invariant.acked_of_reply {a : AfterAck} {r' : Half}
    (hadvance : a = .advance → s.fw.chunkIndex.toNat < s.fw.chunkCount.toNat)
    (hfinalize : a = .finalize → r' = Config.sentinel) : Acked a (setReqId r' s) := by
  obtain ⟨hbusy, hr, hattempt, htimer⟩ := hinv.between_of_op hpos
  exact ⟨hinv.fixedOk.keep ⟨rfl, rfl, rfl, rfl, rfl⟩, ⟨hbusy, hr, hattempt, htimer⟩,
    (hinv.streams_of_reply hpos).setReqId r', hinv.not_valid_of_op hpos, hadvance, hfinalize⟩

theorem Invariant.reloaded (r' : Half) : Invariant (goto .loadChunk (setReqId r' s)) := by
  obtain ⟨hbusy, hr, hattempt, htimer⟩ := hinv.between_of_op hpos
  exact ((hinv.streams_of_reply hpos).setReqId r').invariant_of_loadChunk (hinv.fixedOk.keep ⟨rfl, rfl, rfl, rfl, rfl⟩)
    ⟨hbusy, hr, hattempt, htimer⟩ (hinv.not_valid_of_op hpos) rfl

end

/-- Every operation the engine runs from its place keeps the invariant. -/
theorem Invariant.operated {i : Instr} (hinv : Invariant s) (hpos : s.pos = .op i) (h : Operated s i t) :
    Invariant t := by
  have hop := hinv.opAllowed hpos
  have hbetween := hinv.between_of_op hpos
  cases h with
  | violated o p =>
    exact hinv.ended hop (stopped_endWith _ _ hbetween.rstate hbetween.attempt hbetween.timer)
      ⟨rfl, rfl, rfl, rfl, rfl⟩ rfl
  | requested o p haccepted =>
    exact hinv.begun hpos (exchanging_of_resting hop) ⟨(payloadAccepted_iff.mp haccepted).2,
      fun hfw => absurd hfw (ne_of_resting hop rfl), fun hfw => absurd hfw (ne_of_resting hop rfl)⟩
  | serialized st o d p => exact hinv.loaded hpos
  | rejected b => contradiction
  | accepted b f => contradiction
  | eraseRequested c =>
    have hfw : s.fw.fwState = .erasing := of_decide_eq_true hop
    have hc : c = s.params.opcClearStorage := hinv.op_operands _ hpos
    exact hinv.begun hpos (by rw [hfw]; rfl) ⟨Nat.zero_le _, fun _ => ⟨hc, rfl⟩,
      fun hstream => absurd (hfw.symm.trans hstream) nofun⟩
  | eraseFailed o d st => exact hinv.abort _ hbetween.timer (by rw [hpos]; exact nofun)
  | eraseThenBoot o d st => exact hinv.erasedThenBoot hpos
  | eraseThenStream o d st =>
    exact hinv.enteredStreaming hbetween (by rw [hpos]; exact nofun) (.inl (of_decide_eq_true hop))
  | bootWritten c =>
    exact hinv.move hpos rfl nofun rfl rfl hop (requestOk_of_neither nofun rfl)
      (sameOutside_tWrite (requestFrame s.params c []) s) (tWrite_control (requestFrame s.params c []) s)
  | chunkRequested c n k data =>
    have hfw : s.fw.fwState = .streaming := of_decide_eq_true hop
    obtain ⟨rfl, rfl, rfl, rfl⟩ : c = s.params.opcFwChunk ∧ n = s.fw.chunkCount ∧ k = s.fw.chunkIndex ∧
      data = currentChunk s := hinv.op_operands _ hpos
    exact hinv.begun hpos (by rw [hfw]; rfl)
      ⟨hinv.chunkPayload_fits_of_streaming hfw (by rw [hpos]; exact nofun),
        fun herase => absurd (hfw.symm.trans herase) nofun, fun _ => ⟨rfl, rfl⟩⟩
  | completed o d => exact (hinv.acked_of_reply (a := .finalize) hpos nofun fun _ => rfl).acknowledge
  | sameAgain o d => exact hinv.reloaded hpos _
  | nextWanted o d r hnext hmore => exact (hinv.acked_of_reply (a := .advance) hpos (fun _ => hmore) nofun).acknowledge
  | uninterpretable o d r =>
    exact invariant_abort _ (hinv.fixedOk.keep ⟨rfl, rfl, rfl, rfl, rfl⟩) hbetween.attempt hbetween.timer
      hinv.progress_range (hinv.not_valid_of_op hpos)
  | mcuWritten c =>
    exact hinv.move hpos rfl nofun rfl rfl hop (requestOk_of_neither nofun rfl)
      (sameOutside_tWrite (requestFrame s.params c []) s) (tWrite_control (requestFrame s.params c []) s)

end

end Sys2Proof.Machine
end

section
/-! The invariant through the actions of an exchange (R175) and the other steps of the engine. -/

namespace Sys2Proof.Machine

section
variable {s t : State}

theorem phaseAllowed_of_inExchange {p : Pos} (h : inExchange p = true) (f : FwState) :
    phaseAllowed p f = exchanging f := by
  unfold inExchange at h
  split at h
  case h_8 => contradiction
  all_goals rfl

/-- What an action inside an exchange leaves alone. -/
structure KeepsExchange (s t : State) : Prop where
  outside : SameOutside s t
  fw : t.fw = s.fw
  busy : t.busy = s.busy
  request : SameRequest s t

/-- From one place inside an exchange to another (R175). -/
theorem Invariant.withinExchange (hinv : Invariant s) (hs : inExchange s.pos = true) (ht : inExchange t.pos = true)
    (hkeeps : KeepsExchange s t) (hr : t.seq.rstate = rstateAt t.pos) (hattempt : t.seq.attempt.toNat ≤ 9)
    (htimer : t.seq.timer ≠ 0 → ∃ n, t.pos = .sleeping n) : Invariant t := by
  obtain ⟨hout, hfw, hbusy, hreq⟩ := hkeeps
  have hrun : t.busy = true := hbusy.trans (hinv.busy_iff.mpr fun hidle => by rw [hidle] at hs; contradiction)
  have hphase : phaseAllowed t.pos t.fw.fwState = true := by
    rw [phaseAllowed_of_inExchange ht, hfw, ← phaseAllowed_of_inExchange hs]
    exact hinv.phase
  have hplace : PlaceOk t :=
    ⟨iff_of_true hrun fun hidle => by rw [hidle] at ht; contradiction, hr, hattempt, htimer, hphase⟩
  exact invariant_iff.mpr ⟨hinv.fixedOk.keep hout, hplace, hinv.requestOk.keep hout hfw hs ht hreq,
    hinv.sessionOk.keep hout hfw (plain_of_inExchange hs) (plain_of_inExchange ht)⟩

/-- The start of a sleep and the sleep are one place to the invariant. -/
theorem sleep_place {p : Pos} {n : Nap} (hp : p = .startSleep n ∨ p = .sleeping n) :
    phaseAllowed p = phaseAllowed (.sleeping n) ∧ rstateAt p = rstateAt (.sleeping n) ∧
      inExchange p = inExchange (.sleeping n) ∧ plain p = true ∧ p ≠ .idle := by
  obtain rfl | rfl := hp
  · cases n <;> exact ⟨rfl, rfl, rfl, rfl, nofun⟩
  · exact ⟨rfl, rfl, rfl, rfl, nofun⟩

/-- A sleep, begun or going on (R174). -/
theorem Invariant.asleep {n : Nap} (hinv : Invariant s) (hs : s.pos = .startSleep n ∨ s.pos = .sleeping n)
    (ht : t.pos = .sleeping n) (hkeeps : KeepsExchange s t) (hr : t.seq.rstate = s.seq.rstate)
    (hattempt : t.seq.attempt = s.seq.attempt) : Invariant t := by
  obtain ⟨hout, hfw, hbusy, hreq⟩ := hkeeps
  obtain ⟨hphase, hrstate, hin, hplain, hidle⟩ := sleep_place hs
  rw [← ht] at hphase hrstate hin
  have hplace : PlaceOk t :=
    ⟨iff_of_true (hbusy.trans (hinv.busy_iff.mpr hidle)) (by rw [ht]; exact nofun),
      by rw [hr, hinv.rstate_eq, hrstate], by rw [hattempt]; exact hinv.attempt_le, fun _ => ⟨n, ht⟩,
      by rw [← hphase, hfw]; exact hinv.phase⟩
  have hrequest : RequestOk t := by
    cases h : inExchange t.pos with
    | true => exact hinv.requestOk.keep hout hfw (hin.trans h) h hreq
    | false => exact requestOk_of_neither (by rw [ht]; exact nofun) h
  exact invariant_iff.mpr ⟨hinv.fixedOk.keep hout, hplace, hrequest,
    hinv.sessionOk.keep hout hfw hplain (by rw [ht]; rfl)⟩

theorem Invariant.napped {n : Nap} (hinv : Invariant s) (hpos : s.pos = .startSleep n) :
    Invariant (goto (.sleeping n) (beginSleep n s)) :=
  hinv.asleep (.inl hpos) rfl ⟨⟨rfl, rfl, rfl, rfl, rfl⟩, rfl, rfl, ⟨rfl, rfl, rfl, rfl⟩⟩ rfl rfl

theorem Invariant.ticked {n : Nap} (hinv : Invariant s) (hpos : s.pos = .sleeping n) : Invariant (tickTimer s) :=
  hinv.asleep (.inr hpos) hpos ⟨⟨rfl, rfl, rfl, rfl, rfl⟩, rfl, rfl, ⟨rfl, rfl, rfl, rfl⟩⟩ rfl rfl

theorem keepsExchange_sendRequest (s : State) : KeepsExchange s (sendRequest s) := by
  constructor <;> simp [sendRequest, SameOutside, SameRequest]

theorem keepsExchange_recvResponse (s : State) : KeepsExchange s (recvResponse s) := by
  constructor <;> simp [recvResponse, SameOutside, SameRequest]

theorem Invariant.sent (hinv : Invariant s) (hpos : s.pos = .send) : Invariant (sendRequest s) := by
  have htimer : (sendRequest s).seq.timer = 0 := by
    simpa [sendRequest] using hinv.timer_eq_zero (by rw [hpos]; exact nofun)
  exact hinv.withinExchange (by rw [hpos]; rfl) rfl (keepsExchange_sendRequest s) (by simp [sendRequest, rstateAt])
    (by simpa [sendRequest] using hinv.attempt_le) fun hne => absurd htimer hne

theorem Invariant.received (hinv : Invariant s) (hpos : s.pos = .recv) : Invariant (recvResponse s) := by
  have htimer : (recvResponse s).seq.timer = 0 := by
    simpa [recvResponse] using hinv.timer_eq_zero (by rw [hpos]; exact nofun)
  exact hinv.withinExchange (by rw [hpos]; rfl) rfl (keepsExchange_recvResponse s) (by simp [recvResponse, rstateAt])
    (by simpa [recvResponse] using hinv.attempt_le) fun hne => absurd htimer hne

theorem Invariant.attemptFailed (hinv : Invariant s) (hs : inExchange s.pos = true) (htimer : s.seq.timer = 0) :
    Invariant (attemptFailed s) :=
  hinv.withinExchange hs rfl ⟨⟨rfl, rfl, rfl, rfl, rfl⟩, rfl, rfl, ⟨rfl, rfl, rfl, rfl⟩⟩ rfl hinv.attempt_le
    fun hne => absurd htimer hne

theorem Invariant.waited (hinv : Invariant s) (hs : inExchange s.pos = true) (htimer : s.seq.timer = 0) :
    Invariant (goto .recv (setRState .read s)) :=
  hinv.withinExchange hs rfl ⟨⟨rfl, rfl, rfl, rfl, rfl⟩, rfl, rfl, ⟨rfl, rfl, rfl, rfl⟩⟩ rfl hinv.attempt_le
    fun hne => absurd htimer hne

theorem Invariant.retried (hinv : Invariant s) (hs : inExchange s.pos = true) (htimer : s.seq.timer = 0)
    (hleft : s.seq.attempt.toNat ≠ 9) : Invariant (goto .send (nextAttempt s)) := by
  have hattempt : (s.seq.attempt + 1).toNat ≤ 9 := by
    have hle := hinv.attempt_le
    bv_omega
  exact hinv.withinExchange hs rfl ⟨⟨rfl, rfl, rfl, rfl, rfl⟩, rfl, rfl, ⟨rfl, rfl, rfl, rfl⟩⟩ rfl hattempt
    fun hne => absurd htimer hne

/-! ## The end of an exchange -/

section
variable (hinv : Invariant s) (hs : inExchange s.pos = true) (htimer : s.seq.timer = 0)
include hinv hs

theorem Invariant.exchanging : exchanging s.fw.fwState = true := by
  rw [← phaseAllowed_of_inExchange hs]
  exact hinv.phase

/-- An exchange outside a session is an ordinary command's. -/
theorem Invariant.resting_of_command (hcaller : caller s = .command) : resting s.fw.fwState = true := by
  obtain ⟨h, -⟩ | ⟨h, -⟩ | ⟨-, herase, hstream⟩ := caller_cases s
  · rw [h] at hcaller; contradiction
  · rw [h] at hcaller; contradiction
  · simpa [Machine.exchanging, herase, hstream] using hinv.exchanging hs

include htimer

/-- A reply accepted in a session is the tracker's next action. -/
theorem Invariant.replied {i : Instr} (hop : Machine.opAllowed i s.fw.fwState = true)
    (hoperands : OpOperands (goto (.op i) (setRState .idle s)) i) :
    Invariant (goto (.op i) (setRState .idle s)) := by
  have hbusy : s.busy = true := hinv.busy_iff.mpr fun hidle => by rw [hidle] at hs; contradiction
  have hbetween : Between (goto (.op i) (setRState .idle s)) := ⟨hbusy, rfl, hinv.attempt_le, htimer⟩
  have hout : SameOutside s (goto (.op i) (setRState .idle s)) := ⟨rfl, rfl, rfl, rfl, rfl⟩
  exact invariant_iff.mpr ⟨hinv.fixedOk.keep hout, hbetween.placeOk nofun rfl hop, requestOk_of_op rfl hoperands,
    hinv.sessionOk.keep hout rfl (plain_of_inExchange hs) rfl⟩

theorem Invariant.returnFrame (f : Frame) : Invariant (returnFrame f s) := by
  obtain ⟨hc, heq⟩ | ⟨-, -, heq⟩ | ⟨st, q, hc, -, heq⟩ | ⟨hc, heq⟩ := returnFrame_cases f s <;> rw [heq]
  · exact hinv.ended (hinv.resting_of_command hs hc)
      (stopped_endWith .ok 0x00 (s := { s with seq := { s.seq with rstate := .idle }, res := frameResults f s.res })
        rfl hinv.attempt_le htimer) ⟨rfl, rfl, rfl, rfl, rfl⟩ rfl
  · exact hinv.abort _ htimer (ne_hold_of_plain (plain_of_inExchange hs))
  · have hfw : s.fw.fwState = .erasing := by simpa [hc] using caller_cases s
    exact hinv.replied hs htimer (decide_eq_true hfw) trivial
  · have hfw : s.fw.fwState = .streaming := by simpa [hc] using caller_cases s
    exact hinv.replied hs htimer (decide_eq_true hfw) trivial

theorem Invariant.returnNone : Invariant (returnNone s) := by
  obtain ⟨hc, heq⟩ | ⟨-, heq⟩ | ⟨-, heq⟩ := returnNone_cases s <;> rw [heq]
  · exact hinv.ended (hinv.resting_of_command hs hc)
      (stopped_endWith .unavailable 0x00 (s := setRState .idle s) rfl hinv.attempt_le htimer)
      ⟨rfl, rfl, rfl, rfl, rfl⟩ rfl
  · exact hinv.abort _ htimer (ne_hold_of_plain (plain_of_inExchange hs))
  · exact hinv.abort _ htimer (ne_hold_of_plain (plain_of_inExchange hs))

end

/-! ## The other steps of the tracker -/

theorem Invariant.opened (hinv : Invariant s) (hpos : s.pos = .openCall) (k : ResKind) (a : Nat) :
    Invariant (endWith k 0x00 (tOpen a s)) := by
  obtain ⟨-, hr, hattempt, htimer⟩ :=
    hinv.between (by rw [hpos]; exact nofun) (by rw [hpos]; rfl) (by rw [hpos]; exact nofun)
  exact hinv.ended (hinv.phase_at hpos) (stopped_endWith k 0x00 (by simpa using hr) (by simpa using hattempt)
    (by simpa using htimer)) (by simp [SameOutside]) (by simp)

theorem Invariant.between_at (hinv : Invariant s) {p : Pos} (hpos : s.pos = p) (hidle : p ≠ .idle)
    (hr : rstateAt p = .idle) (hsleep : ∀ n, p ≠ .sleeping n) : Between s := by
  subst hpos
  exact hinv.between hidle hr hsleep

/-- The first chunk is next (R208). -/
theorem Invariant.counted (hinv : Invariant s) (hpos : s.pos = .countChunks) (hsome : 1 ≤ imageChunks s)
    (hmax : imageChunks s ≤ 0xFFFE) : Invariant (goto .loadChunk
      { s with fw := { s.fw with chunkCount := BitVec.ofNat 16 (imageChunks s), chunkIndex := 1 } }) := by
  have hfw : s.fw.fwState = .streaming := of_decide_eq_true (hinv.phase_at hpos)
  obtain ⟨hbusy, hr, hattempt, htimer⟩ := hinv.between_at hpos nofun rfl nofun
  obtain ⟨hfresh, hrange, hvalid, hfinal, herr⟩ := hinv.opening (by rw [hpos]; exact nofun) (.inr (.inr ⟨hfw, hpos⟩))
  have hcount : (BitVec.ofNat 16 (imageChunks s)).toNat = imageChunks s := Nat.mod_eq_of_lt (by omega)
  have hstreams : Streams (imageChunks s)
      { s.fw with chunkCount := BitVec.ofNat 16 (imageChunks s), chunkIndex := 1 } :=
    ⟨hfw, le_rfl, hsome.trans_eq hcount.symm, hcount.trans_le hmax, hcount, by rw [hfresh]; exact Nat.zero_le _,
      ⟨by rw [hfresh]; exact Nat.zero_le _, hrange⟩, fun h => absurd (hfinal.symm.trans h) nofun, herr⟩
  exact Streams.invariant_of_loadChunk hstreams (hinv.fixedOk.keep ⟨rfl, rfl, rfl, rfl, rfl⟩)
    ⟨hbusy, hr, hattempt, htimer⟩ hvalid rfl

/-- The chunk's request is next (R209). -/
theorem Invariant.chunkLoading (hinv : Invariant s) (hpos : s.pos = .loadChunk) : Invariant (goto
    (.op (.fwChunkRequest s.params.opcFwChunk s.fw.chunkCount s.fw.chunkIndex (currentChunk s))) (withFinal s)) := by
  have hfw := hinv.streaming_of_loadChunk hpos
  obtain ⟨hbusy, hr, hattempt, htimer⟩ := hinv.between_at hpos nofun rfl nofun
  obtain ⟨-, hfirst, hlast, hmax, hcount, hsurfaced, hrange, -, herr⟩ := hinv.streams hfw (by rw [hpos]; exact nofun)
  have hstreams : Streams (imageChunks s) (withFinal s).fw :=
    ⟨hfw, hfirst, hlast, hmax, hcount, hsurfaced, hrange, fun h => of_decide_eq_true h, herr⟩
  have hbetween : Between (goto (.op (.fwChunkRequest s.params.opcFwChunk s.fw.chunkCount s.fw.chunkIndex
      (currentChunk s))) (withFinal s)) := ⟨hbusy, hr, hattempt, htimer⟩
  exact invariant_iff.mpr ⟨hinv.fixedOk.keep ⟨rfl, rfl, rfl, rfl, rfl⟩,
    hbetween.placeOk nofun rfl (decide_eq_true hfw), requestOk_of_op rfl ⟨rfl, rfl, rfl, rfl⟩,
    Streams.sessionOk_of_plain hstreams rfl (hinv.not_valid (by rw [hpos]; exact nofun))⟩

/-- The taken value lets the tracker go on (R220). -/
theorem Invariant.released {a : AfterAck} (hinv : Invariant s) (hpos : s.pos = .hold a)
    (htaken : s.fw.progressValid = false) : Invariant (proceed a s) :=
  Acked.proceed {
    fixed := hinv.fixedOk
    between := hinv.between_at hpos nofun rfl nofun
    streams := hinv.streams (of_decide_eq_true (hinv.phase_at hpos)) (by rw [hpos]; exact nofun)
    free := htaken
    advance := fun ha => hinv.hold_advance (ha ▸ hpos)
    finalize := fun ha => hinv.hold_sentinel (ha ▸ hpos) }

/-- The session is over (R222). -/
theorem Invariant.finished (hinv : Invariant s) (hpos : s.pos = .finish) : Invariant (finishSession s) := by
  have hfw : s.fw.fwState = .finalizing := of_decide_eq_true (hinv.phase_at hpos)
  obtain ⟨-, hr, hattempt, htimer⟩ := hinv.between_at hpos nofun rfl nofun
  have hrested : Rested (finishSession s).fw :=
    ⟨rfl, fun _ => hinv.done_sentinel (.inl hfw), hinv.progress_range, hinv.not_valid (by rw [hpos]; exact nofun),
      hinv.not_final (.inl (by rw [hfw]; exact nofun)), fun h => absurd (hinv.err_zero (by rw [hfw]; exact nofun)) h⟩
  exact Stopped.invariant (stopped_endWith .ok 0x00 (s := setFwState .done s) hr hattempt htimer)
    (hinv.fixedOk.keep ⟨rfl, rfl, rfl, rfl, rfl⟩) hrested

/-- The engine's own steps keep the invariant. -/
theorem Invariant.advanced (hinv : Invariant s) (h : Advanced s t) : Invariant t := by
  cases h with
  | idled => exact hinv
  | opened k hpos => exact hinv.opened hpos k _
  | operated i t hpos h => exact hinv.operated hpos h
  | sent hpos => exact hinv.sent hpos
  | napped n hpos => exact hinv.napped hpos
  | ticked n hpos => exact hinv.ticked hpos
  | waited hpos htimer => exact hinv.waited (by rw [hpos]; rfl) htimer
  | unsent hpos htimer => exact hinv.attemptFailed (by rw [hpos]; rfl) htimer
  | retried hpos htimer hleft => exact hinv.retried (by rw [hpos]; rfl) htimer hleft
  | exhausted hpos htimer => exact hinv.returnNone (by rw [hpos]; rfl) htimer
  | settled hpos htimer =>
    have hr : s.seq.rstate = .idle := hinv.rstate_eq.trans (by rw [hpos]; rfl)
    exact hinv.enteredStreaming ⟨hinv.busy_iff.mpr (by rw [hpos]; exact nofun), hr, hinv.attempt_le, htimer⟩
      (by rw [hpos]; exact nofun) (.inr (of_decide_eq_true (hinv.phase_at hpos)))
  | read hpos => exact hinv.received hpos
  | checked t hpos h =>
    have hs : inExchange s.pos = true := by rw [hpos]; rfl
    have htimer := hinv.timer_eq_zero (by rw [hpos]; exact nofun)
    cases h with
    | rejected => exact hinv.attemptFailed hs htimer
    | accepted b f => exact hinv.returnFrame hs htimer f
  | uncounted c hpos => exact hinv.abort c (hinv.timer_eq_zero (by rw [hpos]; exact nofun)) (by rw [hpos]; exact nofun)
  | counted hpos hsome hmax => exact hinv.counted hpos hsome hmax
  | loaded hpos => exact hinv.chunkLoading hpos
  | held => exact hinv
  | released a hpos htaken => exact hinv.released hpos htaken
  | finished hpos => exact hinv.finished hpos

end

end Sys2Proof.Machine
end

section
/-! The invariant at reset and through the host's moves, and so through every step. -/

namespace Sys2Proof.Machine

section
variable {s t : State}

theorem rested_reset : Rested Tracker.reset :=
  ⟨rfl, nofun, ⟨Nat.zero_le _, Nat.zero_le _⟩, rfl, rfl, fun h => absurd rfl h⟩

/-- A reset engine meets the invariant if what is outside it does (R270). -/
theorem invariant_resetEngine (hparams : s.params.wf) (himg : Memory.wf s.img = true) : Invariant (resetEngine s) :=
  Stopped.invariant ⟨rfl, rfl, rfl, Nat.zero_le 9, rfl⟩ ⟨hparams, himg, rfl, Nat.two_pow_pos _⟩ rested_reset

/-- Settles O52: the default parameters meet R9, and every register has its reset value. -/
theorem invariantHoldsAtReset : Obligations.InvariantHoldsAtReset := by
  have hparams : State.reset.params.wf := by decide
  exact invariant_resetEngine (s := State.reset) hparams rfl

theorem writeReg_busAddr_lt {P : Params} {r : Operands} (w : RegWrite) (h : r.busAddr < 2 ^ P.addrW) :
    (writeReg P w r).busAddr < 2 ^ P.addrW := by
  cases w with
  | busAddr v => exact Nat.mod_lt _ (Nat.two_pow_pos _)
  | _ => exact h

theorem writeReg_pbuf_wf {r : Operands} (P : Params) (w : RegWrite) (h : Memory.wf r.pbuf = true) :
    Memory.wf (writeReg P w r).pbuf = true := by
  cases w with
  | pbuf a b => exact Memory.writeSeq_wf h
  | _ => exact h

theorem writeImg_wf {m : Memory} (w : RegWrite) (h : Memory.wf m = true) : Memory.wf (writeImg w m) = true := by
  cases w with
  | img a b => exact Memory.writeSeq_wf h
  | _ => exact h

/-- A host write finds no operation in progress (R26), so that it need only keep the form of what it writes. -/
theorem Invariant.wrote (hinv : Invariant s) (w : RegWrite) (hfree : s.busy = false) :
    Invariant { Machine.dropInput s with regs := writeReg s.params w s.regs, img := writeImg w s.img } := by
  have hpos := hinv.pos_idle_of_free hfree
  have hstopped : Stopped { Machine.dropInput s with regs := writeReg s.params w s.regs, img := writeImg w s.img } :=
    ⟨hpos, hfree, hinv.rstate_eq.trans (by rw [hpos]; rfl), hinv.attempt_le,
      hinv.timer_eq_zero (by rw [hpos]; exact nofun)⟩
  exact hstopped.invariant ⟨hinv.params_wf, writeImg_wf w hinv.img_wf, writeReg_pbuf_wf _ w hinv.pbuf_wf,
    writeReg_busAddr_lt w hinv.addr_fits⟩ (hinv.rested (hinv.phase_at hpos))

theorem Invariant.of_stepped (hinv : Invariant s) (h : Stepped s t) : Invariant t := by
  cases h with
  | commanded c t hcmd h => exact hinv.dropCmd.commanded h
  | advanced u t hturn h =>
    obtain rfl | rfl := hturn
    · exact hinv.advanced h
    · exact hinv.dropInput.advanced h
  | discarded => exact hinv.dropInput
  | wrote w hfree => exact hinv.wrote w hfree
  | strobed c => exact hinv.congr rfl rfl rfl rfl rfl rfl rfl id
  | reset => exact invariant_resetEngine hinv.params_wf hinv.img_wf

end

/-- Settles O53: a step is a command, an action of the engine or a move of the host, and each keeps the invariant. -/
theorem stepKeepsTheInvariant : Obligations.StepKeepsTheInvariant :=
  fun _ _ hinv hstep => hinv.of_stepped (hinv.stepped hstep)

end Sys2Proof.Machine
end

section
/-! What a step can do to the tracker (R200, R212 to R222): read off the relations of the step, and the three rules
about `FW_STATE`, the chunk index and the progress value follow. -/

namespace Sys2Proof.Machine

/-- From `s` to `t` no progress value was surfaced. -/
def Silent (s t : State) : Prop := ∀ v, t.env.trace ≠ s.env.trace ++ [.p v]

/-- What an action does to the tracker's phase, counters, requested id and progress. -/
inductive TrackerMoved (s t : State) : Prop
  | kept (valid final : Bool) (hfw : t.fw = { s.fw with progressValid := valid, finalChunk := final })
    (hsilent : Silent s t)
  | phase (htransition : fwTransition s.fw.fwState t.fw.fwState = true) (hsilent : Silent s t)
  | counted (hpos : s.pos = .countChunks) (hstate : t.fw.fwState = s.fw.fwState) (hsilent : Silent s t)
  | released (hpos : s.pos = .hold .advance) (hfw : t.fw = { s.fw with chunkIndex := s.fw.chunkIndex + 1 })
    (hsilent : Silent s t)
  | replied (o d : Byte) (r k : Half) (hpos : s.pos = .op (.fwChunkReply o d r))
    (hk : k = s.fw.chunkIndex ∨ k.toNat = s.fw.chunkIndex.toNat + 1 ∧ r = k)
    (hfw : t.fw = { s.fw with reqId := r, chunkIndex := k }) (hsilent : Silent s t)
  | surfaced (o d : Byte) (r : Half) (p : BitVec 7) (hpos : s.pos = .op (.fwChunkReply o d r))
    (hp : p = progressOf s.fw.chunkIndex s.fw.chunkCount) (hnew : p ≠ s.fw.lastProgress)
    (hfw : t.fw = { s.fw with reqId := r, lastProgress := p, progress := p, progressValid := true })
    (htrace : t.env.trace = s.env.trace ++ [.p p])

section
variable {s t : State}

theorem silent_of_append {es : List Event} (htrace : t.env.trace = s.env.trace ++ es) (hes : ∀ v, Event.p v ∉ es) :
    Silent s t := by
  intro v hv
  rw [htrace, List.append_cancel_left_eq] at hv
  exact hes v (by rw [hv]; exact List.mem_singleton_self _)

theorem silent_of_same (htrace : t.env.trace = s.env.trace) : Silent s t :=
  silent_of_append (es := []) (by rw [htrace, List.append_nil]) nofun

/-- The end of an operation is no progress value. -/
theorem silent_of_end {k : ResKind} {code : Byte} (htrace : t.env.trace = s.env.trace ++ [.e k code]) : Silent s t :=
  silent_of_append htrace (by simp)

theorem trackerMoved_of_same (hfw : t.fw = s.fw) (hsilent : Silent s t) : TrackerMoved s t :=
  .kept s.fw.progressValid s.fw.finalChunk hfw hsilent

/-- What surrounds the engine's registers does not matter to the tracker. -/
theorem TrackerMoved.of_same {u : State} (h : TrackerMoved u t) (hfw : u.fw = s.fw) (hpos : u.pos = s.pos)
    (htrace : u.env.trace = s.env.trace) : TrackerMoved s t := by
  have hsilent (hs : Silent u t) : Silent s t := fun v => htrace ▸ hs v
  cases h with
  | kept valid final h hs => exact .kept valid final (hfw ▸ h) (hsilent hs)
  | phase h hs => exact .phase (hfw ▸ h) (hsilent hs)
  | counted hp h hs => exact .counted (hpos ▸ hp) (hfw ▸ h) (hsilent hs)
  | released hp h hs => exact .released (hpos ▸ hp) (hfw ▸ h) (hsilent hs)
  | replied o d r k hp hk h hs => exact .replied o d r k (hpos ▸ hp) (hfw ▸ hk) (hfw ▸ h) (hsilent hs)
  | surfaced o d r p hp hval hnew h ht =>
    exact .surfaced o d r p (hpos ▸ hp) (hfw ▸ hval) (hfw ▸ hnew) (hfw ▸ h) (htrace ▸ ht)

/-- A session starts from every state at rest (D24). -/
theorem fwTransition_erasing_of_resting {f : FwState} (h : resting f = true) : fwTransition f .erasing = true := by
  cases f <;> trivial

theorem Commanded.trackerMoved {i : Instr} (hinv : Invariant s) (h : Commanded s i t) : TrackerMoved s t := by
  cases h with
  | discarded => exact trackerMoved_of_same rfl (silent_of_same rfl)
  | ended => exact trackerMoved_of_same rfl (silent_of_end rfl)
  | opening => exact trackerMoved_of_same rfl (silent_of_same rfl)
  | requesting => exact trackerMoved_of_same rfl (silent_of_same rfl)
  | startingSession hfree =>
    exact .phase (fwTransition_erasing_of_resting (hinv.phase_at (hinv.pos_idle_of_free hfree))) (silent_of_same rfl)
  | takenBusy => exact .kept false s.fw.finalChunk rfl (silent_of_same rfl)
  | takenFree => exact .kept false s.fw.finalChunk rfl (silent_of_end rfl)

theorem trackerMoved_abort (c : Cause) (hfw : s.fw.fwState = .erasing ∨ s.fw.fwState = .streaming) :
    TrackerMoved s (abort c s) :=
  .phase (by obtain hfw | hfw := hfw <;> rw [hfw] <;> rfl) (silent_of_end rfl)

theorem trackerMoved_returnFrame (f : Frame) (s : State) : TrackerMoved s (returnFrame f s) := by
  obtain ⟨-, heq⟩ | ⟨hc, -, heq⟩ | ⟨st, q, -, -, heq⟩ | ⟨-, heq⟩ := returnFrame_cases f s <;> rw [heq]
  · exact trackerMoved_of_same rfl (silent_of_end rfl)
  · exact trackerMoved_abort _ (.inl (by simpa [hc] using caller_cases s))
  · exact trackerMoved_of_same rfl (silent_of_same rfl)
  · exact trackerMoved_of_same rfl (silent_of_same rfl)

theorem trackerMoved_returnNone (s : State) : TrackerMoved s (returnNone s) := by
  obtain ⟨-, heq⟩ | ⟨hc, heq⟩ | ⟨hc, heq⟩ := returnNone_cases s <;> rw [heq]
  · exact trackerMoved_of_same rfl (silent_of_end rfl)
  · exact trackerMoved_abort _ (.inl (by simpa [hc] using caller_cases s))
  · exact trackerMoved_abort _ (.inr (by simpa [hc] using caller_cases s))

theorem trackerMoved_write (b : Bytes) (p : Pos) (s : State) : TrackerMoved s (goto p (tWrite b s)) :=
  trackerMoved_of_same (tWrite_fw s b) (silent_of_append (es := [.w b (nextAck s)]) (by simp) (by simp))

/-- The reply to a chunk that is acknowledged, with `a` due (R213, R215). -/
theorem trackerMoved_acknowledge {o d : Byte} {r : Half} (a : AfterAck) (hpos : s.pos = .op (.fwChunkReply o d r))
    (hproceed : TrackerMoved s (proceed a (setReqId r s))) : TrackerMoved s (acknowledge a (setReqId r s)) := by
  obtain ⟨-, heq⟩ | ⟨hnew, heq⟩ := acknowledge_cases a (setReqId r s) <;> rw [heq]
  · exact hproceed
  · exact .surfaced o d r _ hpos rfl hnew rfl rfl

theorem Operated.trackerMoved {i : Instr} (hinv : Invariant s) (hpos : s.pos = .op i) (h : Operated s i t) :
    TrackerMoved s t := by
  have hop := hinv.opAllowed hpos
  cases h with
  | violated => exact trackerMoved_of_same rfl (silent_of_end rfl)
  | requested => exact trackerMoved_of_same rfl (silent_of_same rfl)
  | serialized => exact trackerMoved_of_same rfl (silent_of_same rfl)
  | rejected => exact trackerMoved_of_same rfl (silent_of_same rfl)
  | accepted b f => exact trackerMoved_returnFrame f s
  | eraseRequested => exact trackerMoved_of_same rfl (silent_of_same rfl)
  | eraseFailed => exact trackerMoved_abort _ (.inl (of_decide_eq_true hop))
  | eraseThenBoot =>
    have hfw : s.fw.fwState = .erasing := of_decide_eq_true hop
    exact .phase (by rw [hfw]; rfl) (silent_of_same rfl)
  | eraseThenStream =>
    have hfw : s.fw.fwState = .erasing := of_decide_eq_true hop
    exact .phase (by rw [hfw]; rfl) (silent_of_same rfl)
  | bootWritten c => exact trackerMoved_write _ _ s
  | chunkRequested => exact trackerMoved_of_same rfl (silent_of_same rfl)
  | completed o d =>
    have hfw : s.fw.fwState = .streaming := of_decide_eq_true hop
    exact trackerMoved_acknowledge .finalize hpos (.phase (by rw [hfw]; rfl) (silent_of_same rfl))
  | sameAgain o d => exact .replied o d _ _ hpos (.inl rfl) rfl (silent_of_same rfl)
  | nextWanted o d r hnext hmore =>
    have hr : r = s.fw.chunkIndex + 1 := by bv_omega
    exact trackerMoved_acknowledge .advance hpos
      (.replied o d r (s.fw.chunkIndex + 1) hpos (.inr ⟨by rw [← hr, hnext], hr⟩) rfl (silent_of_same rfl))
  | uninterpretable o d r =>
    have hfw : s.fw.fwState = .streaming := of_decide_eq_true hop
    exact .phase (by rw [abort_fw, hfw]; rfl) (silent_of_end rfl)
  | mcuWritten c => exact trackerMoved_write _ _ s

theorem Advanced.trackerMoved (hinv : Invariant s) (h : Advanced s t) : TrackerMoved s t := by
  cases h with
  | idled => exact trackerMoved_of_same rfl (silent_of_same rfl)
  | opened k hpos =>
    exact trackerMoved_of_same (by simp) (silent_of_append (es := [.o s.regs.busAddr (nextAck s), .e k 0x00])
      (by simp) (by simp))
  | operated i t hpos h => exact h.trackerMoved hinv hpos
  | sent =>
    exact trackerMoved_of_same (by simp [sendRequest])
      (silent_of_append (es := [.w (toSend s) (nextAck s)]) (by simp [sendRequest]) (by simp))
  | napped n => exact trackerMoved_of_same rfl (silent_of_append rfl (by simp))
  | ticked => exact trackerMoved_of_same rfl (silent_of_same rfl)
  | waited => exact trackerMoved_of_same rfl (silent_of_same rfl)
  | unsent => exact trackerMoved_of_same rfl (silent_of_same rfl)
  | retried => exact trackerMoved_of_same rfl (silent_of_same rfl)
  | exhausted => exact trackerMoved_returnNone s
  | settled hpos =>
    have hfw : s.fw.fwState = .bootRequested := of_decide_eq_true (hinv.phase_at hpos)
    exact .phase (by rw [hfw]; rfl) (silent_of_same rfl)
  | read =>
    exact trackerMoved_of_same (by simp [recvResponse])
      (silent_of_append (es := [.r s.seq.xRsize.toNat (nextRead s.seq.xRsize.toNat s)]) (by simp [recvResponse])
        (by simp))
  | checked t hpos h =>
    cases h with
    | rejected => exact trackerMoved_of_same rfl (silent_of_same rfl)
    | accepted b f => exact trackerMoved_returnFrame f s
  | uncounted c hpos => exact trackerMoved_abort c (.inr (of_decide_eq_true (hinv.phase_at hpos)))
  | counted hpos => exact .counted hpos rfl (silent_of_same rfl)
  | loaded => exact .kept s.fw.progressValid _ rfl (silent_of_same rfl)
  | held => exact trackerMoved_of_same rfl (silent_of_same rfl)
  | released a hpos =>
    cases a with
    | advance => exact .released hpos rfl (silent_of_same rfl)
    | finalize =>
      have hfw : s.fw.fwState = .streaming := of_decide_eq_true (hinv.phase_at hpos)
      exact .phase (by rw [hfw]; rfl) (silent_of_same rfl)
  | finished hpos =>
    have hfw : s.fw.fwState = .finalizing := of_decide_eq_true (hinv.phase_at hpos)
    exact .phase (by rw [hfw]; rfl) (silent_of_end rfl)

/-- Every step moves the tracker as `TrackerMoved` says, or it is a reset by the host. -/
theorem Invariant.trackerMoved (hinv : Invariant s) (hstep : step s = .next t) : TrackerMoved s t ∨
    (s.cmd = none ∧ s.env.inputs.head? = some .reset) ∧ t = resetEngine (Machine.dropInput s) := by
  cases hinv.stepped hstep with
  | commanded c t hcmd h => exact .inl ((h.trackerMoved hinv.dropCmd).of_same rfl rfl rfl)
  | advanced u t hturn h =>
    obtain rfl | rfl := hturn
    · exact .inl (h.trackerMoved hinv)
    · exact .inl ((h.trackerMoved hinv.dropInput).of_same rfl rfl rfl)
  | discarded => exact .inl (trackerMoved_of_same rfl (silent_of_same rfl))
  | wrote => exact .inl (trackerMoved_of_same rfl (silent_of_same rfl))
  | strobed => exact .inl (trackerMoved_of_same rfl (silent_of_same rfl))
  | reset hcmd hmove => exact .inr ⟨⟨hcmd, hmove⟩, rfl⟩

end

/-- Settles O56: only the moves of `TrackerMoved.phase` write `FW_STATE`, along the table. -/
theorem fwStateFollowsTheTable : Obligations.FwStateFollowsTheTable := by
  intro s t hinv hstep hreset
  obtain hmoved | ⟨⟨hcmd, hmove⟩, -⟩ := hinv.trackerMoved hstep
  · cases hmoved with
    | phase htransition => exact .inr htransition
    | counted _ hstate => exact .inl hstate
    | kept _ _ hfw => exact .inl (by rw [hfw])
    | released _ hfw => exact .inl (by rw [hfw])
    | replied _ _ _ _ _ _ hfw => exact .inl (by rw [hfw])
    | surfaced _ _ _ _ _ _ _ hfw => exact .inl (by rw [hfw])
  · exact absurd hmove (hreset hcmd)

/-- Settles O57: of the moves that stay in `Streaming` only a reply and the end of a hold write the index, and only a
reply writes `REQ_ID`. -/
theorem chunkIndexOnlyAdvancesByOne : Obligations.ChunkIndexOnlyAdvancesByOne := by
  intro s t hinv hstep hs ht hcount
  obtain hmoved | ⟨-, rfl⟩ := hinv.trackerMoved hstep
  · cases hmoved with
    | phase htransition => rw [hs, ht] at htransition; contradiction
    | counted hpos => exact absurd hpos hcount
    | kept _ _ hfw =>
      rw [hfw]
      exact ⟨.inl rfl, rfl, fun hne => absurd rfl hne⟩
    | released hpos hfw =>
      have hnext := (hinv.streams hs hcount).toNat_chunkIndex_succ (hinv.hold_advance hpos)
      rw [hfw]
      exact ⟨.inr ⟨hnext, .inl hpos⟩, rfl, fun hne => absurd rfl hne⟩
    | replied o d r k hpos hk hfw =>
      rw [hfw]
      exact ⟨hk.imp_right fun ⟨hnext, hr⟩ => ⟨hnext, .inr ⟨o, d, r, hpos, hr⟩⟩, rfl, fun _ => ⟨o, d, r, hpos, rfl⟩⟩
    | surfaced o d r p hpos _ _ hfw =>
      rw [hfw]
      exact ⟨.inl rfl, rfl, fun _ => ⟨o, d, r, hpos, rfl⟩⟩
  · contradiction

/-- The last chunk, and no other, is all of the image (R218). -/
theorem percentage_eq_hundred_iff {k n : Nat} (hk : k ≤ n) (hn : 1 ≤ n) : k * 100 / n = 100 ↔ k = n := by
  constructor
  · intro h
    have hle := Nat.div_mul_le_self (k * 100) n
    rw [h] at hle
    omega
  · rintro rfl
    exact Nat.mul_div_cancel_left 100 hn

/-- Settles O58: a value is surfaced by a reply only, and it is the current chunk's percentage, which the invariant
says is not below the last one. -/
theorem progressStrictlyIncreases : Obligations.ProgressStrictlyIncreases := by
  intro s t v hinv hstep htrace
  obtain hmoved | ⟨-, rfl⟩ := hinv.trackerMoved hstep
  · cases hmoved with
    | surfaced o d r p hpos hp hnew hfw htrace' =>
      obtain rfl : p = v := by simpa using htrace'.symm.trans htrace
      have hstreams := hinv.streams_of_reply hpos
      obtain ⟨hexact, hle⟩ := toNat_progressOf hstreams.last
      rw [← hp] at hexact
      have hle' := hstreams.surfaced
      rw [← hexact] at hle hle'
      have hne : s.fw.lastProgress.toNat ≠ p.toNat := fun h => hnew (BitVec.eq_of_toNat_eq h.symm)
      rw [hfw]
      refine ⟨lt_of_le_of_ne hle' hne, hle, rfl, rfl, rfl, ?_, hexact⟩
      rw [hexact, percentage_eq_hundred_iff hstreams.last (hstreams.first.trans hstreams.last)]
      exact BitVec.toNat_inj
    | phase _ hsilent => exact absurd htrace (hsilent v)
    | counted _ _ hsilent => exact absurd htrace (hsilent v)
    | kept _ _ _ hsilent => exact absurd htrace (hsilent v)
    | released _ _ hsilent => exact absurd htrace (hsilent v)
    | replied _ _ _ _ _ _ _ hsilent => exact absurd htrace (hsilent v)
  · exact absurd htrace (silent_of_same rfl v)

end Sys2Proof.Machine
end

section
/-! Steps of the engine while the host is silent, counted: a sleep tick by tick (R174, D9), a chunk sent again (R214),
and a hold (R219, R220). -/

namespace Sys2Proof.Machine

section
variable {s t : State}

theorem runFor_engineStep (hquiet : Quiet s) (h : engineStep s = .next t) (k : Nat) :
    runFor (k + 1) s = runFor k t :=
  runFor_succ k (by rw [step_quiet hquiet, h])

/-- The first `k` ticks of a sleep, by induction on `k`: the timer is `k` lower and nothing else has changed. -/
theorem runFor_ticks {n : Nap} {k : Nat} (hquiet : Quiet s) (hpos : s.pos = .sleeping n)
    (hk : k ≤ s.seq.timer.toNat) :
    runFor k s = .next { s with seq := { s.seq with timer := s.seq.timer - BitVec.ofNat 32 k } } := by
  induction k generalizing s with
  | zero => rw [runFor_zero, show s.seq.timer - BitVec.ofNat 32 0 = s.seq.timer from BitVec.sub_zero _]
  | succ k ih =>
    have htimer : s.seq.timer ≠ 0 := by rintro h0; rw [h0] at hk; contradiction
    have htick : engineStep s = .next (tickTimer s) := by
      rw [engineStep_sleeping hpos, sleepStep_of_timer_ne_zero htimer]
    have hleft : k ≤ (tickTimer s).seq.timer.toNat := by rw [tickTimer_seq]; bv_omega
    have hsum : s.seq.timer - 1 - BitVec.ofNat 32 k = s.seq.timer - BitVec.ofNat 32 (k + 1) := by bv_omega
    rw [runFor_engineStep hquiet htick, ih (s := tickTimer s) hquiet hpos hleft, ← hsum]
    rfl

end

/-- Settles O29: the sleep begins with its event and the whole timer, and each tick takes one off. -/
theorem sleepLastsExactlyItsTicks : Obligations.SleepLastsExactlyItsTicks := by
  intro s n k hquiet hpos hk
  rw [Nat.add_comm, runFor_engineStep hquiet (engineStep_startSleep hpos),
    runFor_ticks (s := goto (.sleeping n) (beginSleep n s)) hquiet rfl hk]
  rfl

section
variable {s : State}

/-- A chunk's request puts the making of its frame next (R210). -/
theorem engineStep_fwChunkRequest (c : Byte) (n k : Half) (data : Bytes) (s : State) :
    engineStep (goto (.op (.fwChunkRequest c n k data)) s) = .next (beginExchange c (chunkPayload n k data) s) := rfl

/-- Loading the current chunk takes three steps to the first send. -/
theorem Invariant.runFor_chunkLoaded (hinv : Invariant s) (hquiet : Quiet s) (hpos : s.pos = .loadChunk) :
    runFor 3 s = .next (chunkLoaded s) := by
  have hload : engineStep s = .next (goto (.op (.fwChunkRequest s.params.opcFwChunk s.fw.chunkCount s.fw.chunkIndex
      (currentChunk s))) (withFinal s)) := loadingAChunkCompletes s hinv hpos
  calc runFor 3 s = runFor 2 _ := runFor_engineStep hquiet hload 2
    _ = runFor 1 _ :=
      runFor_engineStep (s := goto _ (withFinal s)) hquiet (engineStep_fwChunkRequest _ _ _ _ (withFinal s)) 1
    _ = runFor 0 _ :=
      runFor_engineStep (s := beginExchange _ _ (withFinal s)) hquiet (engineStep_beginExchange _ _ (withFinal s)) 0

theorem exec_fwChunkReply_same (o d : Byte) (hne : s.fw.chunkIndex ≠ Config.sentinel) :
    exec (.fwChunkReply o d s.fw.chunkIndex) s = .next (goto .loadChunk (setReqId s.fw.chunkIndex s)) := by
  obtain ⟨heq, -⟩ | ⟨-, -, h⟩ | ⟨-, hnext, -⟩ | ⟨-, hdiff, -⟩ := execFwChunkReply_cases o d s.fw.chunkIndex s
  · exact absurd heq hne
  · exact h
  · omega
  · exact absurd rfl hdiff

end

/-- Settles O43: the reply puts the loading of the chunk next and keeps the invariant, and three steps later the chunk's
frame is loaded. -/
theorem sameChunkIsResent : Obligations.SameChunkIsResent := by
  intro s o d hne
  refine ⟨exec_fwChunkReply_same o d hne, fun hinv hquiet hpos => ?again⟩
  case again =>
    have hinv' : Invariant (goto .loadChunk (setReqId s.fw.chunkIndex s)) := hinv.reloaded hpos _
    refine ⟨chunkLoaded (goto .loadChunk (setReqId s.fw.chunkIndex s)), ?_, rfl, rfl, rfl,
      hinv'.toSend_chunkLoaded rfl, rfl, rfl, rfl⟩
    rw [runFor_engineStep hquiet ((engineStep_op hpos).trans (exec_fwChunkReply_same o d hne)) 3]
    exact hinv'.runFor_chunkLoaded hquiet rfl

/-! ## The hold -/

section
variable {s : State}

theorem engineStep_hold {a : AfterAck} (hpos : s.pos = .hold a) : engineStep s = .next (holdStep a s) := by
  simp [engineStep, hpos]

/-- While the value is on offer the tracker holds, however long. -/
theorem runFor_hold {a : AfterAck} (hquiet : Quiet s) (hpos : s.pos = .hold a) (hvalid : s.fw.progressValid = true)
    (k : Nat) : runFor k s = .next s := by
  have hstay : engineStep s = .next s := by rw [engineStep_hold hpos, holdStep, if_pos hvalid]
  induction k with
  | zero => rfl
  | succ k ih => rw [runFor_engineStep hquiet hstay, ih]

/-- `PROGRESS_TAKE` during a hold, and the step after it. -/
theorem runFor_take {a : AfterAck} (hcmd : s.cmd = some 6) (hinputs : s.env.inputs = []) (hpos : s.pos = .hold a)
    (hbusy : s.busy = true) : runFor 2 s = .next (proceed a (takeProgress (dropCmd s))) := by
  have htake : step s = .next (takeProgress (dropCmd s)) := by
    rw [step_of_cmd hcmd]
    exact if_pos hbusy
  have hgo : engineStep (takeProgress (dropCmd s)) = .next (proceed a (takeProgress (dropCmd s))) := by
    rw [engineStep_hold (s := takeProgress (dropCmd s)) hpos]
    rfl
  rw [runFor_succ 1 htake, runFor_engineStep (s := takeProgress (dropCmd s)) ⟨rfl, hinputs⟩ hgo 0, runFor_zero]

end

/-- Settles O47: the hold step does nothing while the value is on offer, and `proceed` when it was taken. -/
theorem holdWaitsForTheHost : Obligations.HoldWaitsForTheHost := by
  intro s a hpos hbusy hvalid hinputs
  refine ⟨fun k hcmd => runFor_hold ⟨hcmd, hinputs⟩ hpos hvalid k, fun hcmd ha => ?advance, fun hcmd ha => ?finalize⟩
  case advance => rw [runFor_take hcmd hinputs hpos hbusy, ha]; rfl
  case finalize => rw [runFor_take hcmd hinputs hpos hbusy, ha]; rfl

end Sys2Proof.Machine
end

section
/-! An ordinary command reaches its end (R175, R180 to R183, D34): at once, or after the call of `OPEN`, or after an
exchange, which the loop bounds. -/

namespace Sys2Proof.Machine

/-- An ordinary command that was begun in `s` has ended in `t`. -/
structure EndedOrdinary (s t : State) : Prop where
  busy : t.busy = false
  pos : t.pos = .idle
  kind : t.res.kind = .ok ∨ t.res.kind = .unavailable ∨ t.res.kind = .violation
  outside : SameOutside s t
  fw : t.fw = s.fw

section
variable {s t u : State}

theorem endedOrdinary_endWith {k : ResKind} {code : Byte} (hk : k = .ok ∨ k = .unavailable ∨ k = .violation)
    (hout : SameOutside s u) (hfw : u.fw = s.fw) : EndedOrdinary s (endWith k code u) :=
  ⟨rfl, rfl, hk, hout, hfw⟩

/-- What an exchange gives to an ordinary command ends it. -/
theorem endedOrdinary_giveBack {r : State × Option Frame} (hrest : resting s.fw.fwState = true)
    (hout : SameOutside s r.1) (hfw : r.1.fw = s.fw) : EndedOrdinary s (giveBack r) := by
  obtain ⟨v, _ | f⟩ := r
  · rw [giveBack_none, returnNone_of_resting (by rw [hfw]; exact hrest)]
    exact endedOrdinary_endWith (.inr (.inl rfl)) hout hfw
  · rw [giveBack_some, returnFrame_of_resting f (by rw [hfw]; exact hrest)]
    exact endedOrdinary_endWith (.inl rfl) hout hfw

/-- From `ENCODE_REQUEST` on an ordinary command reaches its end, whatever the transport answers. -/
theorem reaches_end_of_encodeRequest {o : Byte} {p : Bytes} (hquiet : Quiet s) (hpos : s.pos = .op (.encodeRequest o p))
    (hrest : resting s.fw.fwState = true) : ∃ t, Reaches s t ∧ EndedOrdinary s t := by
  by_cases h : payloadAccepted s.params s.regs.dPlen p = true
  · have hbegin : engineStep s = .next (beginExchange o p s) :=
      (engineStep_op hpos).trans (exec_encodeRequest_accepted o h)
    have hstart : Reaches s (loadFrame (requestFrame s.params o p) s) :=
      ((Reaches.refl s).engineStep hquiet hbegin).engineStep hquiet (engineStep_beginExchange o p s)
    obtain ⟨v, out, -, hrun, -, hout, hfw, -⟩ :=
      exchangeIsBounded (loadFrame (requestFrame s.params o p) s) hquiet rfl rfl
    exact ⟨_, hstart.trans hrun, endedOrdinary_giveBack hrest hout hfw⟩
  · have hviolate : engineStep s = .next (raiseViolation .invalidPayloadLength s) :=
      (engineStep_op hpos).trans (exec_encodeRequest_rejected o h)
    exact ⟨_, (Reaches.refl s).engineStep hquiet hviolate,
      endedOrdinary_endWith (.inr (.inr rfl)) (SameOutside.refl s) rfl⟩

theorem reaches_end_of_openCall (hquiet : Quiet s) (hpos : s.pos = .openCall) :
    ∃ t, Reaches s t ∧ EndedOrdinary s t := by
  have hcall : engineStep s = .next (openCall s) := by rw [engineStep, hpos]
  have hout : SameOutside s (tOpen s.regs.busAddr s) := by simp [SameOutside]
  refine ⟨_, (Reaches.refl s).engineStep hquiet hcall, ?_⟩
  unfold openCall
  split
  · exact endedOrdinary_endWith (.inl rfl) hout (tOpen_fw _ _)
  · exact endedOrdinary_endWith (.inr (.inl rfl)) hout (tOpen_fw _ _)

/-- The issue of a command is no part of what it is begun in. -/
theorem EndedOrdinary.of_issue {p : Pos} (h : EndedOrdinary (goto p (issue s)) t) : EndedOrdinary s t :=
  ⟨h.busy, h.pos, h.kind, h.outside, h.fw⟩

/-- Every host command but the two of a session reaches its end from an engine at rest. -/
theorem Commanded.reaches_end {i : Instr} (h : Commanded s i u) (hquiet : Quiet s) (hfree : s.busy = false)
    (hrest : resting s.fw.fwState = true) (hsession : i ≠ .fwUpdate) (htake : i ≠ .progressTake) :
    ∃ t, Reaches u t ∧ EndedOrdinary s t := by
  cases h with
  | discarded _ hbusy => exact absurd (hfree.symm.trans hbusy) nofun
  | ended _ k code hk =>
    exact ⟨_, .refl _, endedOrdinary_endWith (hk.imp_right .inr) ⟨rfl, rfl, rfl, rfl, rfl⟩ rfl⟩
  | opening =>
    obtain ⟨t, hrun, hend⟩ := reaches_end_of_openCall (s := goto .openCall (issue s)) hquiet rfl
    exact ⟨t, hrun, hend.of_issue⟩
  | requesting _ o p =>
    obtain ⟨t, hrun, hend⟩ :=
      reaches_end_of_encodeRequest (s := goto (.op (.encodeRequest o p)) (issue s)) hquiet rfl hrest
    exact ⟨t, hrun, hend.of_issue⟩
  | startingSession => contradiction
  | takenBusy => contradiction
  | takenFree => contradiction

end

theorem code_of_decodeCmd_eq {c k : BitVec 4} {i : Instr} (hi : cmdCode i = some k) (h : decodeCmd c = i) : c = k := by
  rw [← h, cmdCode_decodeCmd] at hi
  exact Option.some.inj hi

/-- Settles O16: the code is acted on first, and what it issued reaches its end. -/
theorem ordinaryCommandsEnd : Obligations.OrdinaryCommandsEnd := by
  intro s c hcmd hinputs hfree hpos hrest hsession htake
  obtain ⟨u, hexec, h⟩ := exec_decodeCmd c (dropCmd s)
  obtain ⟨t, hrun, hbusy, htpos, hkind, ⟨hparams, himg, hregs, htcmd, -⟩, hfw⟩ :=
    h.reaches_end ⟨rfl, hinputs⟩ hfree hrest (fun hi => hsession (code_of_decodeCmd_eq rfl hi))
      (fun hi => htake (code_of_decodeCmd_eq rfl hi))
  exact ⟨t, (Reaches.of_step ((step_of_cmd hcmd).trans hexec)).trans hrun, hbusy, htpos, htcmd, hkind, hparams, himg,
    hregs, hfw⟩

end Sys2Proof.Machine
end

section
/-! The host commands one by one (R104, R170, R180 to R183, R201, R220): what each does to a free engine, and that a
busy one discards all but `PROGRESS_TAKE`. -/

namespace Sys2Proof.Machine

theorem ifIdle_of_free {s : State} (run : State → State) (hfree : s.busy = false) :
    ifIdle s run = .next (run (issue s)) := by
  simp [ifIdle, hfree]

/-- While no operation is in progress a command that ends at once changes the result and the trace only. -/
theorem endWith_issue {s : State} (k : ResKind) (code : Byte) (hfree : s.busy = false) (hpos : s.pos = .idle) :
    endWith k code (issue s) = { s with
      res := { s.res with kind := k, code := code }
      env := { s.env with trace := s.env.trace ++ [.e k code] } } := by
  rw [endWith, issue, emit, hfree.symm, hpos.symm]

/-- Settles O6: `NOP` is issued and ended in one step. -/
theorem nopEndsAtOnce : Obligations.NopEndsAtOnce := by
  intro s hfree hpos
  rw [← endWith_issue .ok 0x00 hfree hpos]
  exact ifIdle_of_free _ hfree

theorem exec_reserved {i : Instr} (hi : i = .reserved7 ∨ ∃ x, i = .reserved8ToF x) (s : State) :
    exec i s = ifIdle s (raiseViolation .reservedCommand) := by
  obtain rfl | ⟨x, rfl⟩ := hi <;> rfl

/-- Settles O11: a reserved code is issued and ended in one step. -/
theorem reservedCodesViolate : Obligations.ReservedCodesViolate := by
  intro s i hfree hpos hi
  rw [exec_reserved hi, ifIdle_of_free _ hfree, ← endWith_issue .violation 0x02 hfree hpos]
  rfl

/-- A `T_OPEN` touches nothing but the world outside, whatever it answers (R171). -/
theorem tOpen_eq (a : Nat) (s : State) : tOpen a s =
    { s with env := { (dropAck s).env with trace := s.env.trace ++ [.o a (nextAck s)] } } := by
  unfold tOpen dropAck
  cases s.env.ackQ <;> rfl

/-- Settles O7: the issue touches neither the transport nor the answer it will give, and the call uses up one answer. -/
theorem openReportsTheTransportAnswer : Obligations.OpenReportsTheTransportAnswer := by
  intro s hfree
  refine ⟨goto .openCall (issue s), ifIdle_of_free _ hfree, rfl, ?_⟩
  have hcall : engineStep (goto .openCall (issue s)) = .next (openCall (goto .openCall (issue s))) := rfl
  have hack : nextAck (goto .openCall (issue s)) = nextAck s := rfl
  have hdrop : (dropAck (goto .openCall (issue s))).env = (dropAck s).env := dropAck_env_congr rfl
  rw [hcall, openCall, tOpen_eq, hack, hdrop]
  cases nextAck s <;> simp [endWith, endUnavailable, emit, goto, issue]

/-- Settles O8: the issue puts the empty request next. -/
theorem readIssuesAnEmptyRequest : Obligations.ReadIssuesAnEmptyRequest :=
  fun _ hfree => ifIdle_of_free _ hfree

/-- Settles O9: `PACK` supplies exactly the widths 1 to 8 (R133). -/
theorem writeValuePacksOrViolates : Obligations.WriteValuePacksOrViolates := by
  refine fun s hfree => ⟨fun hlow hhigh => ?packed, fun hbad => ?violated⟩
  case packed =>
    have hpack : valuePayload s.regs = some (be s.regs.value.toNat s.regs.vwidth.toNat) := by
      rw [valuePayload, pack_eq, if_pos ⟨hlow, hhigh⟩]
    rw [exec, execWriteValue, hpack]
    exact ifIdle_of_free _ hfree
  case violated =>
    have hpack : valuePayload s.regs = none := by rw [valuePayload, pack_eq, if_neg (by omega)]
    rw [exec, execWriteValue, hpack]
    exact ifIdle_of_free _ hfree

/-- Settles O10: the payload is `PLEN` bytes of `PBUF` from its start. -/
theorem writeBytesIssuesTheBuffer : Obligations.WriteBytesIssuesTheBuffer := by
  refine fun s hfree => ⟨pbufPayload s.regs, ifIdle_of_free _ hfree, Memory.readSeq_length _ _ _, fun j hj => ?_⟩
  rw [pbufPayload, Memory.readSeq_length] at hj
  rw [pbufPayload, Memory.readSeq_get _ _ _ _ hj, Nat.zero_add]

/-- Settles O12: while busy the value is taken and nothing else; a free engine also ends the command. -/
theorem progressTakeClearsTheOffer : Obligations.ProgressTakeClearsTheOffer := by
  refine fun s => ⟨fun hbusy => if_pos hbusy, fun hfree hpos => ?free⟩
  case free =>
    have hexec : exec .progressTake s = .next (endWith .ok 0x00 (takeProgress (issue s))) := by
      simp [exec, execProgressTake, hfree]
    rw [hexec]
    exact congrArg Host.Outcome.next (endWith_issue (s := takeProgress s) .ok 0x00 hfree hpos)

/-- Settles O13: the issue is followed by the new session. -/
theorem fwUpdateStartsASession : Obligations.FwUpdateStartsASession :=
  fun s hfree => ifIdle_of_free
    (fun t => goto (.op (.clearStorageRequest s.params.opcClearStorage)) (newSession t)) hfree

/-- Settles O14: of what a command can do only the discard and the taking of a value find the engine busy. -/
theorem busyEngineDiscardsCommands : Obligations.BusyEngineDiscardsCommands := by
  intro s i hbusy hcode htake
  obtain ⟨c, hc⟩ := Option.ne_none_iff_exists'.mp hcode
  obtain ⟨t, hexec, h⟩ := exec_commanded hc s
  have hfree_absurd (hfree : s.busy = false) : t = s := absurd (hbusy.symm.trans hfree) nofun
  have hsame : t = s := by
    cases h with
    | discarded => rfl
    | ended _ _ _ _ hfree => exact hfree_absurd hfree
    | opening hfree => exact hfree_absurd hfree
    | requesting _ _ _ hfree => exact hfree_absurd hfree
    | startingSession hfree => exact hfree_absurd hfree
    | takenBusy => contradiction
    | takenFree => contradiction
  rw [hexec, hsame]

end Sys2Proof.Machine
end

section
/-! The engine's actions one by one, as the spec's rules state them: the send and the read of an attempt (R175), the
erase and the boot request (R203, R204), the chunk count (R208) and the replies to a chunk (R213 to R216). -/

namespace Sys2Proof.Machine

/-- Settles O27: one step for the send, and one for each end of the delay. -/
theorem sendThenDelayThenRead : Obligations.SendThenDelayThenRead := by
  refine fun s => ⟨fun hpos => ?send, fun hpos htimer => ?read, fun hpos htimer => ?skip⟩
  case send => rw [engineStep_send hpos, sendRequest, tWrite_eq]; rfl
  case read => rw [engineStep_sleeping hpos, sleepStep_of_timer_zero htimer]; rfl
  case skip => rw [engineStep_sleeping hpos, sleepStep_of_timer_zero htimer]; rfl

/-- One answer leaves the queue of reads, or one free answer is drawn (log entry 4). -/
theorem dropRead_eq (s : State) : (dropRead s).env.readQ = s.env.readQ.tail ∧
    (dropRead s).env.tick = (if s.env.readQ = [] then s.env.tick + 1 else s.env.tick) := by
  cases hq : s.env.readQ <;> simp [dropRead, hq]

/-- Settles O28: the read is one `T_READ`, and the receive buffer holds its answer. -/
theorem readFillsTheReceiveBuffer : Obligations.ReadFillsTheReceiveBuffer := by
  intro s hpos
  have hreceived : received (recvResponse s) =
      (match nextRead s.seq.xRsize.toNat s with | .fault => [] | .bytes b => b) :=
    received_tRead _ s.seq.xRsize.isLt s
  obtain ⟨hqueue, htick⟩ := dropRead_eq s
  refine ⟨recvResponse s, engineStep_recv hpos, rfl, by simp [recvResponse], by simp [recvResponse], ?length,
    fun b hb => by rw [hreceived, hb], fun hf => by rw [hreceived, hf], (keepsExchange_recvResponse s).outside, ?_⟩
  case length =>
    rw [hreceived]
    cases hans : nextRead s.seq.xRsize.toNat s with
    | fault => exact Nat.zero_le _
    | bytes b => exact nextRead_length_le _ s b hans
  simp [recvResponse, hqueue, htick]

/-- Settles O35: the three branches of the erase reply. -/
theorem eraseReplyDecidesTheSession : Obligations.EraseReplyDecidesTheSession := by
  refine fun s o d st => ⟨fun hbad => ?failed, fun hok hboot => ?boot, fun hok hboot => ?stream⟩
  case failed => exact if_pos hbad
  case boot => simp [exec, execClearStorageReply, hok, hboot, goto, setFwState]
  case stream => rw [hok]; exact exec_clearStorageReply_noBoot o d hboot

/-- Settles O36: the row is one `T_WRITE` and the settle delay. -/
theorem bootRequestIsOneWrite : Obligations.BootRequestIsOneWrite := by
  intro s c
  rw [exec_resetForBootRequest, tWrite_eq]
  rfl

theorem engineStep_countChunks {s : State} (hpos : s.pos = .countChunks) : engineStep s = .next (countChunks s) := by
  simp [engineStep, hpos]

/-- Settles O38: which branch of the count is taken is the chunk count's range. -/
theorem streamingCountsTheChunks : Obligations.StreamingCountsTheChunks := by
  rintro s n hpos rfl
  rw [engineStep_countChunks hpos, countChunks, imageChunks]
  refine ⟨fun code hcode => ?aborted, fun hsome hmax => ?counted⟩
  case aborted =>
    obtain ⟨hnone, rfl⟩ | ⟨hmany, rfl⟩ := hcode
    · rw [if_pos hnone]; rfl
    · rw [if_neg (by omega), if_pos hmany]; rfl
  case counted => rw [if_neg (by omega), if_neg (by omega)]; rfl

section
variable {s : State}

theorem acknowledge_of_repeated (a : AfterAck) (h : progressOf s.fw.chunkIndex s.fw.chunkCount = s.fw.lastProgress) :
    acknowledge a s = proceed a s := if_pos h

theorem acknowledge_of_new (a : AfterAck) (h : progressOf s.fw.chunkIndex s.fw.chunkCount ≠ s.fw.lastProgress) :
    acknowledge a s = goto (.hold a) (surface (progressOf s.fw.chunkIndex s.fw.chunkCount) s) := if_neg h

theorem exec_fwChunkReply_next {r : Half} (o d : Byte) (hr : r ≠ Config.sentinel)
    (hnext : r.toNat = s.fw.chunkIndex.toNat + 1) (hmore : s.fw.chunkIndex.toNat < s.fw.chunkCount.toNat) :
    exec (.fwChunkReply o d r) s = .next (acknowledge .advance (setReqId r s)) := by
  have hne : r ≠ s.fw.chunkIndex := by rintro rfl; omega
  exact (if_neg hr).trans ((if_neg hne).trans (if_pos ⟨hnext, hmore⟩))

theorem exec_fwChunkReply_sentinel (o d : Byte) :
    exec (.fwChunkReply o d Config.sentinel) s = .next (acknowledge .finalize (setReqId Config.sentinel s)) := by
  simp [exec, execFwChunkReply]

theorem exec_fwChunkReply_other {r : Half} (o d : Byte) (hr : r ≠ Config.sentinel) (hne : r ≠ s.fw.chunkIndex)
    (hother : ¬ (r.toNat = s.fw.chunkIndex.toNat + 1 ∧ s.fw.chunkIndex.toNat < s.fw.chunkCount.toNat)) :
    exec (.fwChunkReply o d r) s = .next (abort .uninterpretableRequest (setReqId r s)) :=
  (if_neg hr).trans ((if_neg hne).trans (if_neg hother))

end

/-- Settles O44: the reply acknowledges the chunk, and the next chunk's number is the one requested. -/
theorem nextChunkIsAcknowledged : Obligations.NextChunkIsAcknowledged := by
  rintro s o d r p hr hnext hmore rfl
  have hindex : s.fw.chunkIndex + 1 = r := by bv_omega
  rw [exec_fwChunkReply_next o d hr hnext hmore]
  refine ⟨fun hsame => ?repeated, fun hnew => ?surfaced⟩
  case repeated => rw [acknowledge_of_repeated (s := setReqId r s) .advance hsame, ← hindex]; rfl
  case surfaced => rw [acknowledge_of_new (s := setReqId r s) .advance hnew]; rfl

/-- Settles O45: the sentinel acknowledges the chunk, whichever it is. -/
theorem sentinelFinalizes : Obligations.SentinelFinalizes := by
  rintro s o d p rfl
  rw [show (0xFFFF : Half) = Config.sentinel from rfl, exec_fwChunkReply_sentinel]
  refine ⟨fun hsame => ?repeated, fun hnew => ?surfaced⟩
  case repeated => rw [acknowledge_of_repeated (s := setReqId Config.sentinel s) .finalize hsame]; rfl
  case surfaced => rw [acknowledge_of_new (s := setReqId Config.sentinel s) .finalize hnew]; rfl

/-- Settles O46: the reply's last branch. -/
theorem uninterpretableRequestAborts : Obligations.UninterpretableRequestAborts := by
  intro s o d r hr hne hother
  exact exec_fwChunkReply_other o d hr hne (by omega)

end Sys2Proof.Machine
end

section
/-! Reset (R48, R270). -/

namespace Sys2Proof.Machine

/-- Settles O50: the reset values, one by one. -/
theorem resetValuesAreTheSpecs : Obligations.ResetValuesAreTheSpecs := by
  unfold Obligations.ResetValuesAreTheSpecs
  decide

/-- Settles O51: the host's move resets the engine over the state it is taken from. -/
theorem resetEndsTheOperation : Obligations.ResetEndsTheOperation := by
  intro s q hcmd hmove
  rw [step_of_move hcmd hmove, hostMove, resetEngine, hcmd]
  rfl

end Sys2Proof.Machine
end
